-- ==== Sys2Proof/Word.lean ====
section
/-! DEFINITION. The bit vectors of the core: words, halfwords, bytes and doubles (00_scope.md R4, section 6). -/

namespace Sys2Proof

/-- 32 bits: the width of every register, of an address and of an instruction (00_scope.md R3, XLEN). -/
abbrev Word := BitVec 32

/-- 16 bits (00_scope.md section 6). -/
abbrev Half := BitVec 16

/-- 8 bits, the unit of memory (20_memory.md R50). -/
abbrev Byte := BitVec 8

/-- 64 bits: a double-precision value, held in two floating-point registers (10_state.md R31). -/
abbrev Double := BitVec 64

end Sys2Proof
end

