-- ==== Sys2Proof/Machine/Flags.lean ====
section
/-! DEFINITION. The core has no flags (10_state.md R40); here stand the conditions its instructions test instead: signed
overflow, the comparisons, and when a division has no defined result. -/

namespace Sys2Proof.Machine

/-- The exact result does not fit 32 bits of two's complement (40_arith_logic_reg.md R111, R125). -/
def outOfRange (n : Int) : Bool := decide (n < -2 ^ 31 ∨ n > 2 ^ 31 - 1)

/-- ADD and ADDI overflow (40_arith_logic_reg.md R111; 60_exceptions.md R238). -/
def addOverflow (a b : Word) : Bool := outOfRange (a.toInt + b.toInt)

/-- SUB overflows (40_arith_logic_reg.md R113; 60_exceptions.md R238). -/
def subOverflow (a b : Word) : Bool := outOfRange (a.toInt - b.toInt)

/-- `0^31 || 1` or `0^32` (40_arith_logic_reg.md R119). -/
def boolWord (b : Bool) : Word := if b then 1#32 else 0#32

/-- `signed(a) < signed(b)` (40_arith_logic_reg.md R119). -/
def lessSigned (a b : Word) : Bool := decide (a.toInt < b.toInt)

/-- `unsigned(a) < unsigned(b)` (40_arith_logic_reg.md R120). -/
def lessUnsigned (a b : Word) : Bool := decide (a.toNat < b.toNat)

/-- DIV's results are 'any value': a zero divisor, or -2^31 / -1 (40_arith_logic_reg.md R117, D12). -/
def signedDivisionOpen (n d : Word) : Bool := decide (d.toInt = 0 ∨ (n.toInt = -2 ^ 31 ∧ d.toInt = -1))

/-- DIVU's results are 'any value': a zero divisor (40_arith_logic_reg.md R118). -/
def unsignedDivisionOpen (d : Word) : Bool := decide (d.toNat = 0)

end Sys2Proof.Machine
end

