-- ==== Sys2Proof/Config.lean ====
section
/-! DEFINITION. What the spec leaves to the implementation or the platform (00_scope.md R3, 10_state.md R41), the
fixed numbers of the hardware, and the free values, which are opaque: nothing can be proved of the value they have. -/

namespace Sys2Proof

/-- The CPU mode (10_state.md R38). -/
inductive Mode where
  | kernel
  | user
  deriving DecidableEq, Repr

/-- BYTE_ORDER (20_memory.md R52, D2). -/
inductive ByteOrder where
  | big
  | little
  deriving DecidableEq, Repr

/-- FP_PAIR_ORDER (10_state.md R31, D17): which register of a pair holds the more significant half. -/
inductive PairOrder where
  | firstHigh
  | firstLow
  deriving DecidableEq, Repr

/-- The kind of a memory access (00_scope.md R3, LegalAddr). -/
inductive AccessKind where
  | fetch
  | load
  | store
  deriving DecidableEq, Repr

/-- One range of addresses for which LegalAddr is false: accesses at `first` to `last`, both included, by the given
mode, size in bytes and kind; `none` stands for every mode, every size, every kind (log 3). -/
structure Hole where
  mode  : Option Mode
  size  : Option Nat
  kind  : Option AccessKind
  first : Word
  last  : Word
  deriving DecidableEq, Repr

/-- The parameters of the step that the spec leaves open and fixes for a run (10_state.md R41; log 1). -/
structure Platform where
  byteOrder : ByteOrder
  pairOrder : PairOrder
  /-- LegalAddr is false exactly in these ranges (20_memory.md R55, D5). -/
  holes     : List Hole
  deriving DecidableEq, Repr

/-- The four arithmetic operations of FpArith (46_float.md R201). -/
inductive FpOp where
  | add
  | sub
  | mul
  | div
  deriving DecidableEq, Repr

/-- What FpArith returns (46_float.md R201): a value of the operands' width, or Trap. -/
inductive FpResult (w : Nat) where
  | ok (r : BitVec w)
  | trap
  deriving DecidableEq, Repr, Inhabited

/-- FMT_S, bits 25..21 of a single-precision instruction (30_encoding.md R90, D15; log 18). -/
def Config.fmtS : BitVec 5 := 0b00000#5

/-- FMT_D, bits 25..21 of a double-precision instruction (30_encoding.md R90, D15; log 18). -/
def Config.fmtD : BitVec 5 := 0b00001#5

/-- RESET_PC (10_state.md R42, D24). DESIGN CHOICE, unsafe: the spec's suggested default (log 5). -/
def Config.resetPc : Word := 0xBFC00000#32

/-- The parameters in State.reset. DESIGN CHOICE, unsafe: the spec leaves all three open (logs 2, 3, 4). -/
def Config.resetPlatform : Platform := { byteOrder := .big, pairOrder := .firstHigh, holes := [] }

/-- Free value, safe: the `n`-th value drawn for a register whose content is 'any value' (40_arith_logic_reg.md
R117, R118; 93 U1, U2; log 11). -/
opaque Config.freeWord : Nat → Word

/-- Free value, safe: FpArith of width `w` outside FpExact (46_float.md R201, R202; 93 U4; log 17). -/
opaque Config.fpOpen (w : Nat) : FpOp → BitVec w → BitVec w → FpResult w

/-- Free value, safe: whether an exact zero result is the negative zero, where R202 does not say (log 16). -/
opaque Config.fpZeroNegative (w : Nat) : FpOp → BitVec w → BitVec w → Bool

end Sys2Proof
end

