-- ==== Sys2Proof/Machine/Bytes.lean ====
section
/-! DEFINITION. Concatenation of bit fields (00_scope.md R5), and the byte order: how the bytes of memory make up a
word or a halfword (20_memory.md R52). Used by fetch, loads, stores, the decoder and the encoder alike. -/

namespace Sys2Proof.Machine

/-- The field `v` with its lowest bit at bit `lo` of a vector of `w` bits, zeros elsewhere. A concatenation `a || b || c`
of R5 is the OR of its fields, each at its place. -/
def putAt {k : Nat} (w lo : Nat) (v : BitVec k) : BitVec w := v.setWidth w <<< lo

/-- `halfword(a)` of R52: `b0` is the byte at the lower address. -/
def joinHalf (o : ByteOrder) (b0 b1 : Byte) : Half :=
  match o with
  | .big    => putAt 16 8 b0 ||| putAt 16 0 b1
  | .little => putAt 16 8 b1 ||| putAt 16 0 b0

/-- `word(a)` of R52: `b0` is the byte at the lowest address. -/
def joinWord (o : ByteOrder) (b0 b1 b2 b3 : Byte) : Word :=
  match o with
  | .big    => putAt 32 24 b0 ||| putAt 32 16 b1 ||| putAt 32 8 b2 ||| putAt 32 0 b3
  | .little => putAt 32 24 b3 ||| putAt 32 16 b2 ||| putAt 32 8 b1 ||| putAt 32 0 b0

/-- The two bytes of a halfword, the one at the lower address first (R52, MemWrite). -/
def splitHalf (o : ByteOrder) (v : Half) : List Byte :=
  match o with
  | .big    => [v.extractLsb' 8 8, v.extractLsb' 0 8]
  | .little => [v.extractLsb' 0 8, v.extractLsb' 8 8]

/-- The four bytes of a word, the one at the lowest address first (R52, MemWrite). -/
def splitWord (o : ByteOrder) (v : Word) : List Byte :=
  match o with
  | .big    => [v.extractLsb' 24 8, v.extractLsb' 16 8, v.extractLsb' 8 8, v.extractLsb' 0 8]
  | .little => [v.extractLsb' 0 8, v.extractLsb' 8 8, v.extractLsb' 16 8, v.extractLsb' 24 8]

end Sys2Proof.Machine
end

