-- ==== Sys2Proof/Syntax.lean ====
section
/-! DEFINITION. The 62 instructions (00_scope.md R2), one constructor per row of spec/opcode_table.json, with the
operands of the row in the order of the assembly format (30_encoding.md R98). -/

namespace Sys2Proof

/-- A general register number (10_state.md R21). -/
abbrev Reg := Fin 32

/-- A floating-point register number (10_state.md R30). -/
abbrev FReg := Fin 32

/-- A coprocessor 0 register number (10_state.md R33). -/
abbrev CReg := Fin 32

/-- An instruction of the core. The fields are those a program can see; the ignored bits 25..6 of SYSCALL are no
operand (30_encoding.md R95, R98; log 29). -/
inductive Instr where
  -- Register arithmetic, compare and logic (40_arith_logic_reg.md)
  /-- ADD, R111. -/
  | add (rd rs rt : Reg)
  /-- ADDU, R112. -/
  | addu (rd rs rt : Reg)
  /-- SUB, R113. -/
  | sub (rd rs rt : Reg)
  /-- SUBU, R114. -/
  | subu (rd rs rt : Reg)
  /-- MULT, R115. -/
  | mult (rs rt : Reg)
  /-- MULTU, R116. -/
  | multu (rs rt : Reg)
  /-- DIV, R117. -/
  | div (rs rt : Reg)
  /-- DIVU, R118. -/
  | divu (rs rt : Reg)
  /-- SLT, R119. -/
  | slt (rd rs rt : Reg)
  /-- SLTU, R120. -/
  | sltu (rd rs rt : Reg)
  /-- AND, R121. -/
  | and (rd rs rt : Reg)
  /-- OR, R122. -/
  | or (rd rs rt : Reg)
  /-- NOR, R123. -/
  | nor (rd rs rt : Reg)
  /-- XOR, R124. -/
  | xor (rd rs rt : Reg)
  -- Immediates (41_immediate.md)
  /-- ADDI, R131. -/
  | addi (rt rs : Reg) (imm : Half)
  /-- ADDIU, R132. -/
  | addiu (rt rs : Reg) (imm : Half)
  /-- SLTI, R133. -/
  | slti (rt rs : Reg) (imm : Half)
  /-- SLTIU, R134. -/
  | sltiu (rt rs : Reg) (imm : Half)
  /-- ANDI, R135. -/
  | andi (rt rs : Reg) (imm : Half)
  /-- ORI, R136. -/
  | ori (rt rs : Reg) (imm : Half)
  /-- XORI, R137. -/
  | xori (rt rs : Reg) (imm : Half)
  -- Shifts (42_shift.md)
  /-- SLL, R141. -/
  | sll (rd rt : Reg) (sa : BitVec 5)
  /-- SLLV, R142. -/
  | sllv (rd rt rs : Reg)
  /-- SRL, R143. -/
  | srl (rd rt : Reg) (sa : BitVec 5)
  /-- SRLV, R144. -/
  | srlv (rd rt rs : Reg)
  /-- SRA, R145. -/
  | sra (rd rt : Reg) (sa : BitVec 5)
  /-- SRAV, R146. -/
  | srav (rd rt rs : Reg)
  -- Loads, stores and LUI (43_load_store_lui.md)
  /-- LW, R151. -/
  | lw (rt : Reg) (imm : Half) (rs : Reg)
  /-- SW, R152. -/
  | sw (rt : Reg) (imm : Half) (rs : Reg)
  /-- LBU, R153. -/
  | lbu (rt : Reg) (imm : Half) (rs : Reg)
  /-- LB, R154. -/
  | lb (rt : Reg) (imm : Half) (rs : Reg)
  /-- LHU, R155. -/
  | lhu (rt : Reg) (imm : Half) (rs : Reg)
  /-- LH, R156. -/
  | lh (rt : Reg) (imm : Half) (rs : Reg)
  /-- SB, R157. -/
  | sb (rt : Reg) (imm : Half) (rs : Reg)
  /-- SH, R158. -/
  | sh (rt : Reg) (imm : Half) (rs : Reg)
  /-- LWC1, R159. -/
  | lwc1 (ft : FReg) (imm : Half) (rs : Reg)
  /-- SWC1, R160. -/
  | swc1 (ft : FReg) (imm : Half) (rs : Reg)
  /-- LUI, R161. -/
  | lui (rt : Reg) (imm : Half)
  -- Branches and jumps (44_branch_jump.md)
  /-- BEQ, R171. -/
  | beq (rs rt : Reg) (imm : Half)
  /-- BNE, R172. -/
  | bne (rs rt : Reg) (imm : Half)
  /-- BLEZ, R173. -/
  | blez (rs : Reg) (imm : Half)
  /-- BGTZ, R174. -/
  | bgtz (rs : Reg) (imm : Half)
  /-- BLTZ, R175. -/
  | bltz (rs : Reg) (imm : Half)
  /-- J, R176. -/
  | j (target : BitVec 26)
  /-- JAL, R177. -/
  | jal (target : BitVec 26)
  /-- JR, R178. -/
  | jr (rs : Reg)
  /-- JALR, R179. -/
  | jalr (rd rs : Reg)
  -- Moves from Hi, Lo, to and from coprocessor 0 (45_move_hilo_cop0.md)
  /-- MFHI, R191. -/
  | mfhi (rd : Reg)
  /-- MFLO, R192. -/
  | mflo (rd : Reg)
  /-- MFC0, R193. -/
  | mfc0 (rt : Reg) (cd : CReg)
  /-- MTC0, R194. -/
  | mtc0 (cd : CReg) (rt : Reg)
  -- Floating point (46_float.md)
  /-- ADD.S, R203. -/
  | addS (fd fs ft : FReg)
  /-- ADD.D, R204. -/
  | addD (fd fs ft : FReg)
  /-- SUB.S, R205. -/
  | subS (fd fs ft : FReg)
  /-- SUB.D, R206. -/
  | subD (fd fs ft : FReg)
  /-- MUL.S, R207. -/
  | mulS (fd fs ft : FReg)
  /-- MUL.D, R208. -/
  | mulD (fd fs ft : FReg)
  /-- DIV.S, R209. -/
  | divS (fd fs ft : FReg)
  /-- DIV.D, R210. -/
  | divD (fd fs ft : FReg)
  /-- MOV.S, R211. -/
  | movS (fd fs : FReg)
  /-- MOV.D, R212. -/
  | movD (fd fs : FReg)
  -- System call (47_syscall.md)
  /-- SYSCALL, R220. -/
  | syscall
  deriving DecidableEq, Repr

end Sys2Proof
end

