-- ==== Sys2Proof/Decode.lean ====
section
/-! DEFINITION. The encoding of the 62 instructions: the decoder, total on every word and on every list of bytes, the
encoder, and the masks and matches of spec/opcode_table.json (30_encoding.md). -/

namespace Sys2Proof

open Machine

/-- Why bytes are no instruction. -/
inductive DecodeError where
  /-- Fewer than the four bytes of an instruction (30_encoding.md R80). -/
  | truncated
  /-- The word matches no row of the opcode table (30_encoding.md R94). -/
  | illegalOpcode (w : Word)
  deriving DecidableEq, Repr

-- The fields of a word (30_encoding.md R81 to R85).

/-- `op`, bits 31..26. -/
def opField (w : Word) : BitVec 6 := w.extractLsb' 26 6

/-- Bits 25..21: `rs`, or `fmt`, or the selector of the coprocessor 0 moves. -/
def rsField (w : Word) : BitVec 5 := w.extractLsb' 21 5

/-- Bits 20..16: `rt`, or `ft`. -/
def rtField (w : Word) : BitVec 5 := w.extractLsb' 16 5

/-- Bits 15..11: `rd`, or `cd`, or `fs`. -/
def rdField (w : Word) : BitVec 5 := w.extractLsb' 11 5

/-- Bits 10..6: `sa`, or `fd`. -/
def saField (w : Word) : BitVec 5 := w.extractLsb' 6 5

/-- `funct`, bits 5..0. -/
def functField (w : Word) : BitVec 6 := w.extractLsb' 0 6

/-- The number in bits 25..21. -/
def rsOf (w : Word) : Fin 32 := (rsField w).toFin

/-- The number in bits 20..16. -/
def rtOf (w : Word) : Fin 32 := (rtField w).toFin

/-- The number in bits 15..11. -/
def rdOf (w : Word) : Fin 32 := (rdField w).toFin

/-- The number in bits 10..6. -/
def fdOf (w : Word) : Fin 32 := (saField w).toFin

/-- The shift amount, bits 10..6. -/
def saOf (w : Word) : BitVec 5 := saField w

/-- `imm`, bits 15..0 (R82). -/
def immOf (w : Word) : Half := w.extractLsb' 0 16

/-- `target`, bits 25..0 (R83). -/
def targetOf (w : Word) : BitVec 26 := w.extractLsb' 0 26

/-- The answer for a word that matches no row. -/
def illegal (w : Word) : Except DecodeError Instr := .error (.illegalOpcode w)

/-- `op` = 000000, selected by `funct` (30_encoding.md R88, R89). -/
def decodeSpecial (w : Word) : Except DecodeError Instr :=
  match functField w with
  | 0b000000#6 => if rsField w = 0#5 then .ok (.sll (rdOf w) (rtOf w) (saOf w)) else illegal w
  | 0b000010#6 => if rsField w = 0#5 then .ok (.srl (rdOf w) (rtOf w) (saOf w)) else illegal w
  | 0b000011#6 => if rsField w = 0#5 then .ok (.sra (rdOf w) (rtOf w) (saOf w)) else illegal w
  | 0b000100#6 => if saField w = 0#5 then .ok (.sllv (rdOf w) (rtOf w) (rsOf w)) else illegal w
  | 0b000110#6 => if saField w = 0#5 then .ok (.srlv (rdOf w) (rtOf w) (rsOf w)) else illegal w
  | 0b000111#6 => if saField w = 0#5 then .ok (.srav (rdOf w) (rtOf w) (rsOf w)) else illegal w
  | 0b001000#6 => if rtField w = 0#5 ∧ rdField w = 0#5 ∧ saField w = 0#5 then .ok (.jr (rsOf w)) else illegal w
  | 0b001001#6 => if rtField w = 0#5 ∧ saField w = 0#5 then .ok (.jalr (rdOf w) (rsOf w)) else illegal w
  | 0b001100#6 => .ok .syscall
  | 0b010000#6 => if rsField w = 0#5 ∧ rtField w = 0#5 ∧ saField w = 0#5 then .ok (.mfhi (rdOf w)) else illegal w
  | 0b010010#6 => if rsField w = 0#5 ∧ rtField w = 0#5 ∧ saField w = 0#5 then .ok (.mflo (rdOf w)) else illegal w
  | 0b011000#6 => if rdField w = 0#5 ∧ saField w = 0#5 then .ok (.mult (rsOf w) (rtOf w)) else illegal w
  | 0b011001#6 => if rdField w = 0#5 ∧ saField w = 0#5 then .ok (.multu (rsOf w) (rtOf w)) else illegal w
  | 0b011010#6 => if rdField w = 0#5 ∧ saField w = 0#5 then .ok (.div (rsOf w) (rtOf w)) else illegal w
  | 0b011011#6 => if rdField w = 0#5 ∧ saField w = 0#5 then .ok (.divu (rsOf w) (rtOf w)) else illegal w
  | 0b100000#6 => if saField w = 0#5 then .ok (.add (rdOf w) (rsOf w) (rtOf w)) else illegal w
  | 0b100001#6 => if saField w = 0#5 then .ok (.addu (rdOf w) (rsOf w) (rtOf w)) else illegal w
  | 0b100010#6 => if saField w = 0#5 then .ok (.sub (rdOf w) (rsOf w) (rtOf w)) else illegal w
  | 0b100011#6 => if saField w = 0#5 then .ok (.subu (rdOf w) (rsOf w) (rtOf w)) else illegal w
  | 0b100100#6 => if saField w = 0#5 then .ok (.and (rdOf w) (rsOf w) (rtOf w)) else illegal w
  | 0b100101#6 => if saField w = 0#5 then .ok (.or (rdOf w) (rsOf w) (rtOf w)) else illegal w
  | 0b100110#6 => if saField w = 0#5 then .ok (.xor (rdOf w) (rsOf w) (rtOf w)) else illegal w
  | 0b100111#6 => if saField w = 0#5 then .ok (.nor (rdOf w) (rsOf w) (rtOf w)) else illegal w
  | 0b101010#6 => if saField w = 0#5 then .ok (.slt (rdOf w) (rsOf w) (rtOf w)) else illegal w
  | 0b101011#6 => if saField w = 0#5 then .ok (.sltu (rdOf w) (rsOf w) (rtOf w)) else illegal w
  | _ => illegal w

/-- `op` = 010000, the coprocessor 0 moves (30_encoding.md R84, R92). -/
def decodeCop0 (w : Word) : Except DecodeError Instr :=
  if saField w = 0#5 ∧ functField w = 0#6 then
    match rsField w with
    | 0b00000#5 => .ok (.mfc0 (rtOf w) (rdOf w))
    | 0b00100#5 => .ok (.mtc0 (rdOf w) (rtOf w))
    | _ => illegal w
  else illegal w

/-- `op` = 010001, `fmt` = FMT_S (30_encoding.md R90). -/
def decodeSingle (w : Word) : Except DecodeError Instr :=
  match functField w with
  | 0b000000#6 => .ok (.addS (fdOf w) (rdOf w) (rtOf w))
  | 0b000001#6 => .ok (.subS (fdOf w) (rdOf w) (rtOf w))
  | 0b000010#6 => .ok (.mulS (fdOf w) (rdOf w) (rtOf w))
  | 0b000011#6 => .ok (.divS (fdOf w) (rdOf w) (rtOf w))
  | 0b000110#6 => if rtField w = 0#5 then .ok (.movS (fdOf w) (rdOf w)) else illegal w
  | _ => illegal w

/-- `op` = 010001, `fmt` = FMT_D (30_encoding.md R90). -/
def decodeDouble (w : Word) : Except DecodeError Instr :=
  match functField w with
  | 0b000000#6 => .ok (.addD (fdOf w) (rdOf w) (rtOf w))
  | 0b000001#6 => .ok (.subD (fdOf w) (rdOf w) (rtOf w))
  | 0b000010#6 => .ok (.mulD (fdOf w) (rdOf w) (rtOf w))
  | 0b000011#6 => .ok (.divD (fdOf w) (rdOf w) (rtOf w))
  | 0b000110#6 => if rtField w = 0#5 then .ok (.movD (fdOf w) (rdOf w)) else illegal w
  | _ => illegal w

/-- `op` = 010001, selected by `fmt` (30_encoding.md R85, R90). -/
def decodeFloat (w : Word) : Except DecodeError Instr :=
  if rsField w = Config.fmtS then decodeSingle w
  else if rsField w = Config.fmtD then decodeDouble w
  else illegal w

/-- The instruction a word is, by its op-code (30_encoding.md R87); a word that matches no row is refused by name
(R94). -/
def decodeWord (w : Word) : Except DecodeError Instr :=
  match opField w with
  | 0b000000#6 => decodeSpecial w
  | 0b000001#6 => if rtField w = 0#5 then .ok (.bltz (rsOf w) (immOf w)) else illegal w
  | 0b000010#6 => .ok (.j (targetOf w))
  | 0b000011#6 => .ok (.jal (targetOf w))
  | 0b000100#6 => .ok (.beq (rsOf w) (rtOf w) (immOf w))
  | 0b000101#6 => .ok (.bne (rsOf w) (rtOf w) (immOf w))
  | 0b000110#6 => if rtField w = 0#5 then .ok (.blez (rsOf w) (immOf w)) else illegal w
  | 0b000111#6 => if rtField w = 0#5 then .ok (.bgtz (rsOf w) (immOf w)) else illegal w
  | 0b001000#6 => .ok (.addi (rtOf w) (rsOf w) (immOf w))
  | 0b001001#6 => .ok (.addiu (rtOf w) (rsOf w) (immOf w))
  | 0b001010#6 => .ok (.slti (rtOf w) (rsOf w) (immOf w))
  | 0b001011#6 => .ok (.sltiu (rtOf w) (rsOf w) (immOf w))
  | 0b001100#6 => .ok (.andi (rtOf w) (rsOf w) (immOf w))
  | 0b001101#6 => .ok (.ori (rtOf w) (rsOf w) (immOf w))
  | 0b001110#6 => .ok (.xori (rtOf w) (rsOf w) (immOf w))
  | 0b001111#6 => if rsField w = 0#5 then .ok (.lui (rtOf w) (immOf w)) else illegal w
  | 0b010000#6 => decodeCop0 w
  | 0b010001#6 => decodeFloat w
  | 0b100000#6 => .ok (.lb (rtOf w) (immOf w) (rsOf w))
  | 0b100001#6 => .ok (.lh (rtOf w) (immOf w) (rsOf w))
  | 0b100011#6 => .ok (.lw (rtOf w) (immOf w) (rsOf w))
  | 0b100100#6 => .ok (.lbu (rtOf w) (immOf w) (rsOf w))
  | 0b100101#6 => .ok (.lhu (rtOf w) (immOf w) (rsOf w))
  | 0b101000#6 => .ok (.sb (rtOf w) (immOf w) (rsOf w))
  | 0b101001#6 => .ok (.sh (rtOf w) (immOf w) (rsOf w))
  | 0b101011#6 => .ok (.sw (rtOf w) (immOf w) (rsOf w))
  | 0b110001#6 => .ok (.lwc1 (rtOf w) (immOf w) (rsOf w))
  | 0b111001#6 => .ok (.swc1 (rtOf w) (immOf w) (rsOf w))
  | _ => illegal w

/-- The instruction the first four of the given bytes are, in byte order `o` (20_memory.md R52, 30_encoding.md R80). -/
def decode (o : ByteOrder) : List Byte → Except DecodeError Instr
  | b0 :: b1 :: b2 :: b3 :: _ => decodeWord (joinWord o b0 b1 b2 b3)
  | _ => .error .truncated

-- The encoder.

/-- A register number as a 5-bit field. -/
def bits (r : Fin 32) : BitVec 5 := BitVec.ofFin r

/-- The R-type layout with `op` = 000000 (30_encoding.md R81). -/
def rType (rs rt rd sa : BitVec 5) (funct : BitVec 6) : Word :=
  putAt 32 26 0b000000#6 ||| putAt 32 21 rs ||| putAt 32 16 rt ||| putAt 32 11 rd ||| putAt 32 6 sa ||| putAt 32 0 funct

/-- The I-type layout (30_encoding.md R82). -/
def iType (op : BitVec 6) (rs rt : BitVec 5) (imm : Half) : Word :=
  putAt 32 26 op ||| putAt 32 21 rs ||| putAt 32 16 rt ||| putAt 32 0 imm

/-- The jump layout (30_encoding.md R83). -/
def jType (op : BitVec 6) (target : BitVec 26) : Word := putAt 32 26 op ||| putAt 32 0 target

/-- The coprocessor 0 move layout (30_encoding.md R84). -/
def cop0Type (selector rt cd : BitVec 5) : Word :=
  putAt 32 26 0b010000#6 ||| putAt 32 21 selector ||| putAt 32 16 rt ||| putAt 32 11 cd

/-- The floating-point register layout (30_encoding.md R85). -/
def fpType (fmt ft fs fd : BitVec 5) (funct : BitVec 6) : Word :=
  putAt 32 26 0b010001#6 ||| putAt 32 21 fmt ||| putAt 32 16 ft ||| putAt 32 11 fs ||| putAt 32 6 fd ||| putAt 32 0 funct

/-- The word of an instruction, from the encoding tables (30_encoding.md R87 to R92); SYSCALL's ignored bits are
written as zeros (47_syscall.md R220; log 29). -/
def encode : Instr → Word
  | .add rd rs rt => rType (bits rs) (bits rt) (bits rd) 0#5 0b100000#6
  | .addu rd rs rt => rType (bits rs) (bits rt) (bits rd) 0#5 0b100001#6
  | .sub rd rs rt => rType (bits rs) (bits rt) (bits rd) 0#5 0b100010#6
  | .subu rd rs rt => rType (bits rs) (bits rt) (bits rd) 0#5 0b100011#6
  | .mult rs rt => rType (bits rs) (bits rt) 0#5 0#5 0b011000#6
  | .multu rs rt => rType (bits rs) (bits rt) 0#5 0#5 0b011001#6
  | .div rs rt => rType (bits rs) (bits rt) 0#5 0#5 0b011010#6
  | .divu rs rt => rType (bits rs) (bits rt) 0#5 0#5 0b011011#6
  | .slt rd rs rt => rType (bits rs) (bits rt) (bits rd) 0#5 0b101010#6
  | .sltu rd rs rt => rType (bits rs) (bits rt) (bits rd) 0#5 0b101011#6
  | .and rd rs rt => rType (bits rs) (bits rt) (bits rd) 0#5 0b100100#6
  | .or rd rs rt => rType (bits rs) (bits rt) (bits rd) 0#5 0b100101#6
  | .nor rd rs rt => rType (bits rs) (bits rt) (bits rd) 0#5 0b100111#6
  | .xor rd rs rt => rType (bits rs) (bits rt) (bits rd) 0#5 0b100110#6
  | .addi rt rs imm => iType 0b001000#6 (bits rs) (bits rt) imm
  | .addiu rt rs imm => iType 0b001001#6 (bits rs) (bits rt) imm
  | .slti rt rs imm => iType 0b001010#6 (bits rs) (bits rt) imm
  | .sltiu rt rs imm => iType 0b001011#6 (bits rs) (bits rt) imm
  | .andi rt rs imm => iType 0b001100#6 (bits rs) (bits rt) imm
  | .ori rt rs imm => iType 0b001101#6 (bits rs) (bits rt) imm
  | .xori rt rs imm => iType 0b001110#6 (bits rs) (bits rt) imm
  | .sll rd rt sa => rType 0#5 (bits rt) (bits rd) sa 0b000000#6
  | .sllv rd rt rs => rType (bits rs) (bits rt) (bits rd) 0#5 0b000100#6
  | .srl rd rt sa => rType 0#5 (bits rt) (bits rd) sa 0b000010#6
  | .srlv rd rt rs => rType (bits rs) (bits rt) (bits rd) 0#5 0b000110#6
  | .sra rd rt sa => rType 0#5 (bits rt) (bits rd) sa 0b000011#6
  | .srav rd rt rs => rType (bits rs) (bits rt) (bits rd) 0#5 0b000111#6
  | .lw rt imm rs => iType 0b100011#6 (bits rs) (bits rt) imm
  | .sw rt imm rs => iType 0b101011#6 (bits rs) (bits rt) imm
  | .lbu rt imm rs => iType 0b100100#6 (bits rs) (bits rt) imm
  | .lb rt imm rs => iType 0b100000#6 (bits rs) (bits rt) imm
  | .lhu rt imm rs => iType 0b100101#6 (bits rs) (bits rt) imm
  | .lh rt imm rs => iType 0b100001#6 (bits rs) (bits rt) imm
  | .sb rt imm rs => iType 0b101000#6 (bits rs) (bits rt) imm
  | .sh rt imm rs => iType 0b101001#6 (bits rs) (bits rt) imm
  | .lwc1 ft imm rs => iType 0b110001#6 (bits rs) (bits ft) imm
  | .swc1 ft imm rs => iType 0b111001#6 (bits rs) (bits ft) imm
  | .lui rt imm => iType 0b001111#6 0#5 (bits rt) imm
  | .beq rs rt imm => iType 0b000100#6 (bits rs) (bits rt) imm
  | .bne rs rt imm => iType 0b000101#6 (bits rs) (bits rt) imm
  | .blez rs imm => iType 0b000110#6 (bits rs) 0#5 imm
  | .bgtz rs imm => iType 0b000111#6 (bits rs) 0#5 imm
  | .bltz rs imm => iType 0b000001#6 (bits rs) 0#5 imm
  | .j target => jType 0b000010#6 target
  | .jal target => jType 0b000011#6 target
  | .jr rs => rType (bits rs) 0#5 0#5 0#5 0b001000#6
  | .jalr rd rs => rType (bits rs) 0#5 (bits rd) 0#5 0b001001#6
  | .mfhi rd => rType 0#5 0#5 (bits rd) 0#5 0b010000#6
  | .mflo rd => rType 0#5 0#5 (bits rd) 0#5 0b010010#6
  | .mfc0 rt cd => cop0Type 0b00000#5 (bits rt) (bits cd)
  | .mtc0 cd rt => cop0Type 0b00100#5 (bits rt) (bits cd)
  | .addS fd fs ft => fpType Config.fmtS (bits ft) (bits fs) (bits fd) 0b000000#6
  | .addD fd fs ft => fpType Config.fmtD (bits ft) (bits fs) (bits fd) 0b000000#6
  | .subS fd fs ft => fpType Config.fmtS (bits ft) (bits fs) (bits fd) 0b000001#6
  | .subD fd fs ft => fpType Config.fmtD (bits ft) (bits fs) (bits fd) 0b000001#6
  | .mulS fd fs ft => fpType Config.fmtS (bits ft) (bits fs) (bits fd) 0b000010#6
  | .mulD fd fs ft => fpType Config.fmtD (bits ft) (bits fs) (bits fd) 0b000010#6
  | .divS fd fs ft => fpType Config.fmtS (bits ft) (bits fs) (bits fd) 0b000011#6
  | .divD fd fs ft => fpType Config.fmtD (bits ft) (bits fs) (bits fd) 0b000011#6
  | .movS fd fs => fpType Config.fmtS 0#5 (bits fs) (bits fd) 0b000110#6
  | .movD fd fs => fpType Config.fmtD 0#5 (bits fs) (bits fd) 0b000110#6
  | .syscall => rType 0#5 0#5 0#5 0#5 0b001100#6

/-- The bytes of an instruction in byte order `o`, the one at the lowest address first. -/
def encodeBytes (o : ByteOrder) (i : Instr) : List Byte := splitWord o (encode i)

-- The opcode table.

/-- `mask` and `match` of the instruction's row in spec/opcode_table.json. -/
def Instr.row : Instr → Word × Word
  | .add _ _ _ => (0xFC0007FF#32, 0x00000020#32)
  | .addu _ _ _ => (0xFC0007FF#32, 0x00000021#32)
  | .sub _ _ _ => (0xFC0007FF#32, 0x00000022#32)
  | .subu _ _ _ => (0xFC0007FF#32, 0x00000023#32)
  | .mult _ _ => (0xFC00FFFF#32, 0x00000018#32)
  | .multu _ _ => (0xFC00FFFF#32, 0x00000019#32)
  | .div _ _ => (0xFC00FFFF#32, 0x0000001A#32)
  | .divu _ _ => (0xFC00FFFF#32, 0x0000001B#32)
  | .slt _ _ _ => (0xFC0007FF#32, 0x0000002A#32)
  | .sltu _ _ _ => (0xFC0007FF#32, 0x0000002B#32)
  | .and _ _ _ => (0xFC0007FF#32, 0x00000024#32)
  | .or _ _ _ => (0xFC0007FF#32, 0x00000025#32)
  | .nor _ _ _ => (0xFC0007FF#32, 0x00000027#32)
  | .xor _ _ _ => (0xFC0007FF#32, 0x00000026#32)
  | .addi _ _ _ => (0xFC000000#32, 0x20000000#32)
  | .addiu _ _ _ => (0xFC000000#32, 0x24000000#32)
  | .slti _ _ _ => (0xFC000000#32, 0x28000000#32)
  | .sltiu _ _ _ => (0xFC000000#32, 0x2C000000#32)
  | .andi _ _ _ => (0xFC000000#32, 0x30000000#32)
  | .ori _ _ _ => (0xFC000000#32, 0x34000000#32)
  | .xori _ _ _ => (0xFC000000#32, 0x38000000#32)
  | .sll _ _ _ => (0xFFE0003F#32, 0x00000000#32)
  | .sllv _ _ _ => (0xFC0007FF#32, 0x00000004#32)
  | .srl _ _ _ => (0xFFE0003F#32, 0x00000002#32)
  | .srlv _ _ _ => (0xFC0007FF#32, 0x00000006#32)
  | .sra _ _ _ => (0xFFE0003F#32, 0x00000003#32)
  | .srav _ _ _ => (0xFC0007FF#32, 0x00000007#32)
  | .lw _ _ _ => (0xFC000000#32, 0x8C000000#32)
  | .sw _ _ _ => (0xFC000000#32, 0xAC000000#32)
  | .lbu _ _ _ => (0xFC000000#32, 0x90000000#32)
  | .lb _ _ _ => (0xFC000000#32, 0x80000000#32)
  | .lhu _ _ _ => (0xFC000000#32, 0x94000000#32)
  | .lh _ _ _ => (0xFC000000#32, 0x84000000#32)
  | .sb _ _ _ => (0xFC000000#32, 0xA0000000#32)
  | .sh _ _ _ => (0xFC000000#32, 0xA4000000#32)
  | .lwc1 _ _ _ => (0xFC000000#32, 0xC4000000#32)
  | .swc1 _ _ _ => (0xFC000000#32, 0xE4000000#32)
  | .lui _ _ => (0xFFE00000#32, 0x3C000000#32)
  | .beq _ _ _ => (0xFC000000#32, 0x10000000#32)
  | .bne _ _ _ => (0xFC000000#32, 0x14000000#32)
  | .blez _ _ => (0xFC1F0000#32, 0x18000000#32)
  | .bgtz _ _ => (0xFC1F0000#32, 0x1C000000#32)
  | .bltz _ _ => (0xFC1F0000#32, 0x04000000#32)
  | .j _ => (0xFC000000#32, 0x08000000#32)
  | .jal _ => (0xFC000000#32, 0x0C000000#32)
  | .jr _ => (0xFC1FFFFF#32, 0x00000008#32)
  | .jalr _ _ => (0xFC1F07FF#32, 0x00000009#32)
  | .mfhi _ => (0xFFFF07FF#32, 0x00000010#32)
  | .mflo _ => (0xFFFF07FF#32, 0x00000012#32)
  | .mfc0 _ _ => (0xFFE007FF#32, 0x40000000#32)
  | .mtc0 _ _ => (0xFFE007FF#32, 0x40800000#32)
  | .addS _ _ _ => (0xFFE0003F#32, 0x44000000#32)
  | .addD _ _ _ => (0xFFE0003F#32, 0x44200000#32)
  | .subS _ _ _ => (0xFFE0003F#32, 0x44000001#32)
  | .subD _ _ _ => (0xFFE0003F#32, 0x44200001#32)
  | .mulS _ _ _ => (0xFFE0003F#32, 0x44000002#32)
  | .mulD _ _ _ => (0xFFE0003F#32, 0x44200002#32)
  | .divS _ _ _ => (0xFFE0003F#32, 0x44000003#32)
  | .divD _ _ _ => (0xFFE0003F#32, 0x44200003#32)
  | .movS _ _ => (0xFFFF003F#32, 0x44000006#32)
  | .movD _ _ => (0xFFFF003F#32, 0x44200006#32)
  | .syscall => (0xFC00003F#32, 0x0000000C#32)

/-- `mask` and `match` of the 62 rows of spec/opcode_table.json, in the table's order. -/
def opcodeTable : List (Word × Word) :=
  [(0xFC0007FF#32, 0x00000020#32),
   (0xFC0007FF#32, 0x00000021#32),
   (0xFC0007FF#32, 0x00000022#32),
   (0xFC0007FF#32, 0x00000023#32),
   (0xFC00FFFF#32, 0x00000018#32),
   (0xFC00FFFF#32, 0x00000019#32),
   (0xFC00FFFF#32, 0x0000001A#32),
   (0xFC00FFFF#32, 0x0000001B#32),
   (0xFC0007FF#32, 0x0000002A#32),
   (0xFC0007FF#32, 0x0000002B#32),
   (0xFC0007FF#32, 0x00000024#32),
   (0xFC0007FF#32, 0x00000025#32),
   (0xFC0007FF#32, 0x00000027#32),
   (0xFC0007FF#32, 0x00000026#32),
   (0xFC000000#32, 0x20000000#32),
   (0xFC000000#32, 0x24000000#32)] ++
  [(0xFC000000#32, 0x28000000#32),
   (0xFC000000#32, 0x2C000000#32),
   (0xFC000000#32, 0x30000000#32),
   (0xFC000000#32, 0x34000000#32),
   (0xFC000000#32, 0x38000000#32),
   (0xFFE0003F#32, 0x00000000#32),
   (0xFC0007FF#32, 0x00000004#32),
   (0xFFE0003F#32, 0x00000002#32),
   (0xFC0007FF#32, 0x00000006#32),
   (0xFFE0003F#32, 0x00000003#32),
   (0xFC0007FF#32, 0x00000007#32),
   (0xFC000000#32, 0x8C000000#32),
   (0xFC000000#32, 0xAC000000#32),
   (0xFC000000#32, 0x90000000#32),
   (0xFC000000#32, 0x80000000#32),
   (0xFC000000#32, 0x94000000#32)] ++
  [(0xFC000000#32, 0x84000000#32),
   (0xFC000000#32, 0xA0000000#32),
   (0xFC000000#32, 0xA4000000#32),
   (0xFC000000#32, 0xC4000000#32),
   (0xFC000000#32, 0xE4000000#32),
   (0xFFE00000#32, 0x3C000000#32),
   (0xFC000000#32, 0x10000000#32),
   (0xFC000000#32, 0x14000000#32),
   (0xFC1F0000#32, 0x18000000#32),
   (0xFC1F0000#32, 0x1C000000#32),
   (0xFC1F0000#32, 0x04000000#32),
   (0xFC000000#32, 0x08000000#32),
   (0xFC000000#32, 0x0C000000#32),
   (0xFC1FFFFF#32, 0x00000008#32),
   (0xFC1F07FF#32, 0x00000009#32),
   (0xFFFF07FF#32, 0x00000010#32)] ++
  [(0xFFFF07FF#32, 0x00000012#32),
   (0xFFE007FF#32, 0x40000000#32),
   (0xFFE007FF#32, 0x40800000#32),
   (0xFFE0003F#32, 0x44000000#32),
   (0xFFE0003F#32, 0x44200000#32),
   (0xFFE0003F#32, 0x44000001#32),
   (0xFFE0003F#32, 0x44200001#32),
   (0xFFE0003F#32, 0x44000002#32),
   (0xFFE0003F#32, 0x44200002#32),
   (0xFFE0003F#32, 0x44000003#32),
   (0xFFE0003F#32, 0x44200003#32),
   (0xFFFF003F#32, 0x44000006#32),
   (0xFFFF003F#32, 0x44200006#32),
   (0xFC00003F#32, 0x0000000C#32)]

/-- The instruction the decoder reads from the bits `w` of an opcode-table row of `nbits` bits, laid out in memory as
the core with the reset byte order stores them. -/
def decodeTableWord (nbits w : Nat) : Option Instr :=
  match decode Config.resetPlatform.byteOrder
      (splitWord Config.resetPlatform.byteOrder (BitVec.ofNat 32 (w % 2 ^ nbits))) with
  | .ok i => some i
  | .error _ => none

end Sys2Proof
end

