-- ==== Sys2Proof/Machine/State.lean ====
section
/-! DEFINITION. The state of the core (10_state.md R20), the reasons a step can stop, and the state after reset
(10_state.md R42). -/

namespace Sys2Proof.Machine

/-- Memory: the bytes that something has loaded or stored, by address, addresses strictly rising (10_state.md R39). A
byte that is not listed has no value (log 10). -/
abbrev Memory := List Host.Cell

/-- The coprocessor 0 registers the spec names (10_state.md R33). -/
inductive Cop0Reg where
  /-- C_12. -/
  | status
  /-- C_13. -/
  | cause
  /-- C_14. -/
  | epc
  deriving DecidableEq, Repr

/-- The five exceptions (60_exceptions.md R230). -/
inductive Exc where
  | illegalAddress
  | syscall
  | illegalOpcode
  | integerOverflow
  | floatingPoint
  deriving DecidableEq, Repr

/-- The architectural state, and three more fields: `stored`, `draws` and `platform`, as their docstrings
say. Each field's rule and reset value stand in INVENTORY.md. -/
structure State where
  /-- The program counter (R25). -/
  pc       : Word
  /-- The general registers; entry 0 is never read (R21). -/
  gprs     : Vector Word 32
  /-- Hi (R29). -/
  hi       : Word
  /-- Lo (R29). -/
  lo       : Word
  /-- The floating-point registers (R30). -/
  fprs     : Vector Word 32
  /-- Status, c0[12] (R34). -/
  status   : Word
  /-- Cause, c0[13] (R35). -/
  cause    : Word
  /-- EPC, c0[14] (R36). -/
  epc      : Word
  /-- The CPU mode (R38). -/
  mode     : Mode
  /-- Memory (R39). -/
  mem      : Memory
  /-- The addresses of the bytes a store of this run has written, strictly rising (20_memory.md R62, 93 U10). -/
  stored   : List Nat
  /-- The model's own: how many free values have been drawn (log 11). -/
  draws    : Nat
  /-- The model's own: the parameters of the step, which no step changes (10_state.md R41; log 1). -/
  platform : Platform
  deriving DecidableEq, Repr

/-- Why the machine stops with a fault. Both are the spec's recommended treatment of reading a byte nothing has written
(93 U3; log 10). -/
inductive Fault where
  /-- Raised by a step whose instruction word holds a byte that nothing has loaded or stored. Safe. -/
  | unwrittenFetch
  /-- Raised by a load that reads a byte that nothing has loaded or stored. Safe. -/
  | unwrittenLoad
  deriving DecidableEq, Repr

/-- Why the model gives a case no meaning. -/
inductive Refusal where
  /-- Raised by `exec` for an instruction without a meaning; no arm of this model does. Safe. -/
  | notModelled (mnemonic : String)
  /-- Raised by MFC0 and MTC0 naming a register other than 12, 13, 14 (45_move_hilo_cop0.md R195, 93 U7). Safe. -/
  | cop0Register
  /-- Raised by MFC0 and MTC0 in user mode (45_move_hilo_cop0.md R195, 93 U8). Safe. -/
  | cop0UserMode
  /-- Raised by a double-precision instruction naming an odd register (46_float.md R213, 93 U6). Safe. -/
  | oddDoubleRegister
  /-- Raised by a step whose instruction word holds a byte that a store of the run has written (20_memory.md R62,
  93 U10). Safe. -/
  | selfModifyingCode
  deriving DecidableEq, Repr

/-- The machine right after reset (10_state.md R42): `pc` at RESET_PC, kernel mode, x[0] = 0, nothing in memory. The
other registers' zeros are a DESIGN CHOICE, unsafe, since the spec gives them no value (logs 6 to 9, 11); the
parameters are those of Config (logs 2 to 5). -/
def State.reset : State :=
  { pc := Config.resetPc
    gprs := Vector.replicate 32 0#32
    hi := 0#32
    lo := 0#32
    fprs := Vector.replicate 32 0#32
    status := 0#32
    cause := 0#32
    epc := 0#32
    mode := .kernel
    mem := []
    stored := []
    draws := 0
    platform := Config.resetPlatform }

end Sys2Proof.Machine
end

