-- ==== Sys2Proof/Machine/Ops.lean ====
section
/-! DEFINITION. The named operations over registers and memory, taking an exception, and fetching an instruction. -/

namespace Sys2Proof.Machine

/-- What one step answers. -/
abbrev Result := Host.Outcome State Fault Refusal

-- Registers.

/-- `x[r]`: register 0 reads 0 (10_state.md R21). -/
def State.x (s : State) (r : Reg) : Word := if r = 0 then 0#32 else s.gprs[r]

/-- `x[r] <- v`: a write to register 0 is discarded (10_state.md R21). -/
def State.setX (s : State) (r : Reg) (v : Word) : State :=
  if r = 0 then s else { s with gprs := s.gprs.set r v }

/-- `f[r]` (10_state.md R30). -/
def State.f (s : State) (r : FReg) : Word := s.fprs[r]

/-- `f[r] <- v` (10_state.md R30). -/
def State.setF (s : State) (r : FReg) (v : Word) : State := { s with fprs := s.fprs.set r v }

/-- `pair(n)`, the 64-bit value of f[n] and f[n+1] (46_float.md R214); `n` is even where it is used. -/
def State.pair (s : State) (n : FReg) : Double :=
  match s.platform.pairOrder with
  | .firstHigh => putAt 64 32 (s.f n) ||| putAt 64 0 (s.f (n + 1))
  | .firstLow  => putAt 64 32 (s.f (n + 1)) ||| putAt 64 0 (s.f n)

/-- `setpair(n, v)` (46_float.md R214). -/
def State.setPair (s : State) (n : FReg) (v : Double) : State :=
  match s.platform.pairOrder with
  | .firstHigh => (s.setF n (v.extractLsb' 32 32)).setF (n + 1) (v.extractLsb' 0 32)
  | .firstLow  => (s.setF n (v.extractLsb' 0 32)).setF (n + 1) (v.extractLsb' 32 32)

/-- `c0[r]`: all 32 bits are read (10_state.md R34 to R36). -/
def State.c0 (s : State) : Cop0Reg → Word
  | .status => s.status
  | .cause  => s.cause
  | .epc    => s.epc

/-- `c0[r] <- v`: all 32 bits are written, and nothing else, `mode` among it (10_state.md R34 to R36, R38). -/
def State.setC0 (s : State) (r : Cop0Reg) (v : Word) : State :=
  match r with
  | .status => { s with status := v }
  | .cause  => { s with cause := v }
  | .epc    => { s with epc := v }

/-- `hi <- h; lo <- l` (10_state.md R29). -/
def State.setHiLo (s : State) (h l : Word) : State := { s with hi := h, lo := l }

/-- `lo <- any value; hi <- any value`, two free values drawn (40_arith_logic_reg.md R117; 93 U1; log 11). -/
def State.drawHiLo (s : State) : State :=
  { s with lo := Config.freeWord s.draws, hi := Config.freeWord (s.draws + 1), draws := s.draws + 2 }

/-- `pc <- pc + 4`, modulo 2^32 (10_state.md R27). -/
def State.advance (s : State) : State := { s with pc := s.pc + 4#32 }

-- Exceptions.

/-- The code of an exception (60_exceptions.md R230). -/
def Exc.code : Exc → Word
  | .illegalAddress  => 4#32
  | .syscall         => 8#32
  | .illegalOpcode   => 10#32
  | .integerOverflow => 12#32
  | .floatingPoint   => 15#32

/-- EXC_VECTOR (60_exceptions.md R232). -/
def excVector : Word := 0x80000180#32

/-- Exception entry (60_exceptions.md R232): EPC <- pc, the whole of Cause <- the code, pc <- the vector, mode <- kernel,
and nothing else (R233). The spec has no return from exception beside it: software returns with MFC0 and JR (R246). -/
def State.takeException (s : State) (e : Exc) : State :=
  { s with epc := s.pc, cause := e.code, pc := excVector, mode := .kernel }

/-- An instruction that raises `e`: the entry is its whole effect (60_exceptions.md R232). -/
def State.raise (s : State) (e : Exc) : Result := .next (s.takeException e)

-- Memory.

/-- The byte at address `a`; `none` where nothing has been loaded or stored (20_memory.md R50; log 10). -/
def Memory.read? : Memory → Nat → Option Byte
  | [], _ => none
  | (b, v) :: m, a => if a = b then some v else Memory.read? m a

/-- Store one byte, the addresses kept rising. -/
def Memory.write : Memory → Nat → Byte → Memory
  | [], a, v => [(a, v)]
  | (b, u) :: m, a, v =>
    if a < b then (a, v) :: (b, u) :: m
    else if a = b then (a, v) :: m
    else (b, u) :: Memory.write m a v

/-- Store bytes at `a`, `a + 1`, ... -/
def Memory.writeBytes : Memory → Nat → List Byte → Memory
  | m, _, [] => m
  | m, a, b :: bs => Memory.writeBytes (Memory.write m a b) (a + 1) bs

/-- The canonical form: addresses strictly rising, each below 2^32. An unlisted byte reads as no value, so no entry can
equal what it reads as. -/
abbrev Memory.wf (m : Memory) : Prop := (m.map Prod.fst).Pairwise (· < ·) ∧ ∀ c ∈ m, c.1 < 2 ^ 32

/-- `halfword(a)` (20_memory.md R52), where both bytes have a value. -/
def Memory.readHalf? (o : ByteOrder) (m : Memory) (a : Nat) : Option Half :=
  match Memory.read? m a, Memory.read? m (a + 1) with
  | some b0, some b1 => some (joinHalf o b0 b1)
  | _, _ => none

/-- `word(a)` (20_memory.md R52), where all four bytes have a value. -/
def Memory.readWord? (o : ByteOrder) (m : Memory) (a : Nat) : Option Word :=
  match Memory.read? m a, Memory.read? m (a + 1), Memory.read? m (a + 2), Memory.read? m (a + 3) with
  | some b0, some b1, some b2, some b3 => some (joinWord o b0 b1 b2 b3)
  | _, _, _, _ => none

/-- The byte at `a`. -/
def State.byteAt (s : State) (a : Word) : Option Byte := Memory.read? s.mem a.toNat

/-- The halfword at `a`, in the platform's byte order. -/
def State.halfAt (s : State) (a : Word) : Option Half := Memory.readHalf? s.platform.byteOrder s.mem a.toNat

/-- The word at `a`, in the platform's byte order. -/
def State.wordAt (s : State) (a : Word) : Option Word := Memory.readWord? s.platform.byteOrder s.mem a.toNat

/-- A rising list of addresses with `a` put into it. -/
def insertAddr : List Nat → Nat → List Nat
  | [], a => [a]
  | b :: l, a => if a < b then a :: b :: l else if a = b then b :: l else b :: insertAddr l a

/-- The addresses `a` to `a + n - 1` put into the list: bytes a store has written (20_memory.md R62). -/
def markStored (l : List Nat) (a n : Nat) : List Nat := (List.range' a n).foldl insertAddr l

/-- Whether the hole takes in an access of `n` bytes at `a` by mode `m` and kind `k` (log 3). -/
def Hole.covers (h : Hole) (m : Mode) (a : Word) (n : Nat) (k : AccessKind) : Bool :=
  h.mode.all (fun m' => decide (m' = m)) && h.size.all (fun n' => decide (n' = n)) &&
    h.kind.all (fun k' => decide (k' = k)) && decide (h.first ≤ a) && decide (a ≤ h.last)

/-- `LegalAddr(mode, addr, n, kind)` (20_memory.md R55): the address is in no hole of the platform. -/
def legalAddr (p : Platform) (m : Mode) (a : Word) (n : Nat) (k : AccessKind) : Bool :=
  !p.holes.any (fun h => Hole.covers h m a n k)

/-- The access is to an illegal address: misaligned, or not legal (20_memory.md R55). -/
def State.illegalAddress (s : State) (a : Word) (n : Nat) (k : AccessKind) : Bool :=
  decide (a.toNat % n ≠ 0) || !legalAddr s.platform s.mode a n k

/-- A load of `n` bytes at `ea` (20_memory.md R56): IllegalAddress and nothing read where the address is illegal; else
the state `write v` for the `v` read, with `pc` advanced. Where a byte read has no value it is a fault (log 10). -/
def State.loadThen {w : Nat} (s : State) (ea : Word) (n : Nat) (value : Option (BitVec w)) (write : BitVec w → State) :
    Result :=
  if s.illegalAddress ea n .load then s.raise .illegalAddress
  else
    match value with
    | some v => .next (write v).advance
    | none => .fault .unwrittenLoad

/-- The bytes `bs` written at `ea`, and recorded as stored (20_memory.md R56, R62). -/
def State.putBytes (s : State) (ea : Word) (bs : List Byte) : State :=
  { s with mem := Memory.writeBytes s.mem ea.toNat bs, stored := markStored s.stored ea.toNat bs.length }

/-- A store of the `n` bytes `bs` at `ea` (20_memory.md R56): IllegalAddress and nothing written where the address is
illegal; else the bytes are replaced and `pc` advances. -/
def State.store (s : State) (ea : Word) (n : Nat) (bs : List Byte) : Result :=
  if s.illegalAddress ea n .store then s.raise .illegalAddress
  else .next (s.putBytes ea bs).advance

-- Fetching an instruction.

/-- What a fetch finds. -/
inductive Fetched where
  /-- The instruction word at `pc`. -/
  | word (w : Word)
  /-- `pc` is an illegal address. -/
  | illegalAddress
  /-- A byte of the word was stored to by this run. -/
  | selfModified
  /-- A byte of the word has no value. -/
  | unwritten
  deriving DecidableEq, Repr

/-- Whether a store of the run has written one of the four bytes at `a` (20_memory.md R62). -/
def State.storedTo (s : State) (a : Word) : Bool := (List.range' a.toNat 4).any (fun b => decide (b ∈ s.stored))

/-- The fetch at `pc` (10_state.md R26 steps 1 and 2; the order of the checks, log 21). -/
def State.fetch (s : State) : Fetched :=
  if s.illegalAddress s.pc 4 .fetch then .illegalAddress
  else if s.storedTo s.pc then .selfModified
  else
    match s.wordAt s.pc with
    | some w => .word w
    | none => .unwritten

/-- Fetch, then go on with the word (10_state.md R26 steps 1 and 2; 20_memory.md R62; 60_exceptions.md R235, R239). -/
def State.fetchThen (s : State) (run : Word → Result) : Result :=
  match s.fetch with
  | .word w         => run w
  | .illegalAddress => s.raise .illegalAddress
  | .selfModified   => .refused .selfModifyingCode
  | .unwritten      => .fault .unwrittenFetch

/-- Decode, then run the instruction; a word that is none raises IllegalOpcode (10_state.md R26 steps 3 and 4;
60_exceptions.md R237). -/
def State.decodeThen (s : State) (w : Word) (run : Instr → Result) : Result :=
  match decodeWord w with
  | .ok i    => run i
  | .error _ => s.raise .illegalOpcode

/-- The word `w` loaded from outside into the four bytes at `pc`, in the platform's byte order: they hold `w` and are not
bytes that a store of the run has written (log 13). -/
def State.placeWord (s : State) (w : Word) : State :=
  { s with
    mem := Memory.writeBytes s.mem s.pc.toNat (splitWord s.platform.byteOrder w)
    stored := s.stored.filter (fun a => decide (a < s.pc.toNat ∨ s.pc.toNat + 4 ≤ a)) }

-- Results shared by the meanings.

/-- `x[r] <- v; pc <- pc + 4`. -/
def State.finishX (s : State) (r : Reg) (v : Word) : Result := .next (s.setX r v).advance

/-- The same, but raising IntegerOverflow, `x[r]` unchanged, when `overflow` (40_arith_logic_reg.md R111). -/
def State.finishChecked (s : State) (r : Reg) (overflow : Bool) (v : Word) : Result :=
  if overflow then s.raise .integerOverflow else s.finishX r v

/-- `hi || lo <- p; pc <- pc + 4` (40_arith_logic_reg.md R115). -/
def State.finishProduct (s : State) (p : Double) : Result :=
  .next (s.setHiLo (p.extractLsb' 32 32) (p.extractLsb' 0 32)).advance

/-- `pc <- target` (44_branch_jump.md R170). -/
def State.goto (s : State) (target : Word) : State := { s with pc := target }

/-- A single-precision result (46_float.md R203): FloatingPoint, f[fd] unchanged, on Trap; else `f[fd] <- r`. A next
state in either case. -/
def State.finishSingle (s : State) (fd : FReg) (result : FpResult 32) : Result :=
  .next
    (match result with
    | .trap => s.takeException .floatingPoint
    | .ok r => (s.setF fd r).advance)

/-- A double-precision result (46_float.md R204). -/
def State.finishDouble (s : State) (fd : FReg) (result : FpResult 64) : Result :=
  .next
    (match result with
    | .trap => s.takeException .floatingPoint
    | .ok r => (s.setPair fd r).advance)

end Sys2Proof.Machine
end

