-- ==== Sys2Proof/Machine/Operands.lean ====
section
/-! DEFINITION. The operand values an instruction assembles from its fields (30_encoding.md R86), and which register
numbers an instruction may name. -/

namespace Sys2Proof.Machine

/-- `sext_32(imm)` (R86). -/
def signExtImm (imm : Half) : Word := imm.signExtend 32

/-- `zext_32(imm)` (R86). -/
def zeroExtImm (imm : Half) : Word := imm.zeroExtend 32

/-- `imm || 0^16`, LUI's value (R86). -/
def upperImm (imm : Half) : Word := putAt 32 16 imm

/-- `sext_32(imm || 00)`, the byte offset of a branch (R86). -/
def branchOffset (imm : Half) : Word := (putAt 18 2 imm).signExtend 32

/-- `pc + 4 + sext_32(imm || 00)` (44_branch_jump.md R170). -/
def branchTarget (pc : Word) (imm : Half) : Word := pc + 4#32 + branchOffset imm

/-- `pc[31:28] || target || 00` (R86, 44_branch_jump.md R176). -/
def jumpTarget (pc : Word) (target : BitVec 26) : Word := putAt 32 28 (pc.extractLsb' 28 4) ||| putAt 32 2 target

/-- `x[rs][4:0]`, the amount of a variable shift (R86, 42_shift.md R140). -/
def shiftAmount (v : Word) : BitVec 5 := v.extractLsb' 0 5

/-- `ea = x[rs] + sext_32(imm)`, modulo 2^32 (20_memory.md R54). -/
def State.effectiveAddress (s : State) (rs : Reg) (imm : Half) : Word := s.x rs + signExtImm imm

/-- `n` may name a pair of floating-point registers (46_float.md R213). -/
def pairNumber (n : FReg) : Bool := decide (n.val % 2 = 0)

/-- The coprocessor 0 register of a number, where the spec names one (10_state.md R33, R37). -/
def cop0Reg? (cd : CReg) : Option Cop0Reg :=
  if cd = 12 then some .status else if cd = 13 then some .cause else if cd = 14 then some .epc else none

/-- The byte SB stores, `v[7:0]` (43_load_store_lui.md R157). -/
def lowByte (v : Word) : Byte := v.extractLsb' 0 8

/-- The halfword SH stores, `v[15:0]` (43_load_store_lui.md R158). -/
def lowHalf (v : Word) : Half := v.extractLsb' 0 16

end Sys2Proof.Machine
end

