-- ==== Sys2Proof/Machine/ArithLogic.lean ====
section
/-! DEFINITION. Register arithmetic, compare and logic (40_arith_logic_reg.md). -/

namespace Sys2Proof.Machine

/-- ADD: the sum, or IntegerOverflow (40_arith_logic_reg.md R111). -/
def execAdd (rd rs rt : Reg) (s : State) : Result := s.finishChecked rd (addOverflow (s.x rs) (s.x rt)) (s.x rs + s.x rt)

/-- ADDU: the sum modulo 2^32 (40_arith_logic_reg.md R112). -/
def execAddu (rd rs rt : Reg) (s : State) : Result := s.finishX rd (s.x rs + s.x rt)

/-- SUB: the difference, or IntegerOverflow (40_arith_logic_reg.md R113). -/
def execSub (rd rs rt : Reg) (s : State) : Result := s.finishChecked rd (subOverflow (s.x rs) (s.x rt)) (s.x rs - s.x rt)

/-- SUBU: the difference modulo 2^32 (40_arith_logic_reg.md R114). -/
def execSubu (rd rs rt : Reg) (s : State) : Result := s.finishX rd (s.x rs - s.x rt)

/-- MULT: the exact signed product into hi and lo (40_arith_logic_reg.md R115). -/
def execMult (rs rt : Reg) (s : State) : Result :=
  s.finishProduct (BitVec.ofInt 64 ((s.x rs).toInt * (s.x rt).toInt))

/-- MULTU: the exact unsigned product into hi and lo (40_arith_logic_reg.md R116). -/
def execMultu (rs rt : Reg) (s : State) : Result :=
  s.finishProduct (BitVec.ofNat 64 ((s.x rs).toNat * (s.x rt).toNat))

/-- DIV: the quotient truncated toward zero into lo, the remainder into hi; two free values where the divisor is zero
and for -2^31 / -1; never an exception (40_arith_logic_reg.md R117). -/
def execDiv (rs rt : Reg) (s : State) : Result :=
  let n := s.x rs
  let d := s.x rt
  if signedDivisionOpen n d then .next s.drawHiLo.advance
  else .next (s.setHiLo (BitVec.ofInt 32 (Int.tmod n.toInt d.toInt)) (BitVec.ofInt 32 (Int.tdiv n.toInt d.toInt))).advance

/-- DIVU: the unsigned quotient into lo, the remainder into hi; two free values where the divisor is zero; never an
exception (40_arith_logic_reg.md R118). -/
def execDivu (rs rt : Reg) (s : State) : Result :=
  let n := s.x rs
  let d := s.x rt
  if unsignedDivisionOpen d then .next s.drawHiLo.advance
  else .next (s.setHiLo (BitVec.ofNat 32 (n.toNat % d.toNat)) (BitVec.ofNat 32 (n.toNat / d.toNat))).advance

/-- SLT: 1 or 0 by the signed comparison (40_arith_logic_reg.md R119). -/
def execSlt (rd rs rt : Reg) (s : State) : Result := s.finishX rd (boolWord (lessSigned (s.x rs) (s.x rt)))

/-- SLTU: 1 or 0 by the unsigned comparison (40_arith_logic_reg.md R120). -/
def execSltu (rd rs rt : Reg) (s : State) : Result := s.finishX rd (boolWord (lessUnsigned (s.x rs) (s.x rt)))

/-- AND (40_arith_logic_reg.md R121). -/
def execAnd (rd rs rt : Reg) (s : State) : Result := s.finishX rd (s.x rs &&& s.x rt)

/-- OR (40_arith_logic_reg.md R122). -/
def execOr (rd rs rt : Reg) (s : State) : Result := s.finishX rd (s.x rs ||| s.x rt)

/-- NOR (40_arith_logic_reg.md R123). -/
def execNor (rd rs rt : Reg) (s : State) : Result := s.finishX rd (~~~(s.x rs ||| s.x rt))

/-- XOR (40_arith_logic_reg.md R124). -/
def execXor (rd rs rt : Reg) (s : State) : Result := s.finishX rd (s.x rs ^^^ s.x rt)

end Sys2Proof.Machine
end

