-- ==== Sys2Proof/Machine/Branch.lean ====
section
/-! DEFINITION. Branches and jumps (44_branch_jump.md). They take effect at once; there is no delay slot (R170). -/

namespace Sys2Proof.Machine

/-- A conditional branch (44_branch_jump.md R170): to the target if `taken`, else to the next instruction. -/
def State.branchIf (s : State) (taken : Bool) (imm : Half) : Result :=
  .next (if taken then s.goto (branchTarget s.pc imm) else s.advance)

/-- BEQ (44_branch_jump.md R171). -/
def execBeq (rs rt : Reg) (imm : Half) (s : State) : Result := s.branchIf (decide (s.x rs = s.x rt)) imm

/-- BNE (44_branch_jump.md R172). -/
def execBne (rs rt : Reg) (imm : Half) (s : State) : Result := s.branchIf (decide (s.x rs ≠ s.x rt)) imm

/-- BLEZ: the comparison is signed (44_branch_jump.md R173). -/
def execBlez (rs : Reg) (imm : Half) (s : State) : Result := s.branchIf (decide ((s.x rs).toInt ≤ 0)) imm

/-- BGTZ: the comparison is signed (44_branch_jump.md R174). -/
def execBgtz (rs : Reg) (imm : Half) (s : State) : Result := s.branchIf (decide ((s.x rs).toInt > 0)) imm

/-- BLTZ: the comparison is signed (44_branch_jump.md R175). -/
def execBltz (rs : Reg) (imm : Half) (s : State) : Result := s.branchIf (decide ((s.x rs).toInt < 0)) imm

/-- J (44_branch_jump.md R176). -/
def execJ (target : BitVec 26) (s : State) : Result := .next (s.goto (jumpTarget s.pc target))

/-- JAL: links `pc + 4` in x[31], both sides from the old pc (44_branch_jump.md R177). -/
def execJal (target : BitVec 26) (s : State) : Result :=
  .next ((s.setX 31 (s.pc + 4#32)).goto (jumpTarget s.pc target))

/-- JR: all 32 bits are copied, none checked (44_branch_jump.md R178, R180). -/
def execJr (rs : Reg) (s : State) : Result := .next (s.goto (s.x rs))

/-- JALR: the target is read before the link is written (44_branch_jump.md R179). -/
def execJalr (rd rs : Reg) (s : State) : Result := .next ((s.setX rd (s.pc + 4#32)).goto (s.x rs))

end Sys2Proof.Machine
end

