-- ==== Sys2Proof/Machine/FpArith.lean ====
section
/-! DEFINITION. FpArith (46_float.md R201): inside FpExact (R202) the exact result, outside it a free value or Trap. -/

namespace Sys2Proof.Machine

/-- A binary format: the widths of the exponent and of the fraction, and the exponent's bias (46_float.md R202). -/
structure FpFormat where
  expBits  : Nat
  fracBits : Nat
  bias     : Nat
  deriving DecidableEq, Repr

/-- binary32 (46_float.md R202; log 14). -/
def singleFormat : FpFormat := { expBits := 8, fracBits := 23, bias := 127 }

/-- binary64 (46_float.md R202; log 14). -/
def doubleFormat : FpFormat := { expBits := 11, fracBits := 52, bias := 1023 }

/-- The sign of `n` put on the natural number `k`. -/
def withSign (negative : Bool) (k : Nat) : Int := if negative then -(k : Int) else (k : Int)

/-- The real number a bit pattern stands for, in units of 2^-(bias + fracBits), of which every normal number is a whole
multiple: `some` for a zero or a normal number, `none` for a subnormal, an infinity or a NaN (log 15). -/
def FpFormat.value? (fmt : FpFormat) (bits : Nat) : Option Int :=
  let frac := bits % 2 ^ fmt.fracBits
  let exp := bits / 2 ^ fmt.fracBits % 2 ^ fmt.expBits
  let negative := decide (bits / 2 ^ (fmt.fracBits + fmt.expBits) % 2 = 1)
  if exp = 0 then if frac = 0 then some 0 else none
  else if exp = 2 ^ fmt.expBits - 1 then none
  else some (withSign negative ((2 ^ fmt.fracBits + frac) * 2 ^ exp))

/-- The bit pattern of the normal number that is `n` such units, where there is one. -/
def FpFormat.pack? (fmt : FpFormat) (n : Int) : Option Nat :=
  let a := n.natAbs
  let exp := Nat.log2 a - fmt.fracBits
  if a = 0 then none
  else if 1 ≤ exp ∧ exp ≤ 2 ^ fmt.expBits - 2 ∧ a % 2 ^ exp = 0 then
    some ((if n < 0 then 1 else 0) * 2 ^ (fmt.fracBits + fmt.expBits) + exp * 2 ^ fmt.fracBits +
      (a / 2 ^ exp - 2 ^ fmt.fracBits))
  else none

/-- The exact result in the same units, where it is a whole multiple of them; none for a division by zero. -/
def FpFormat.exact? (fmt : FpFormat) (op : FpOp) (x y : Int) : Option Int :=
  match op with
  | .add => some (x + y)
  | .sub => some (x - y)
  | .mul => if (2 ^ (fmt.bias + fmt.fracBits) : Int) ∣ x * y then some (x * y / 2 ^ (fmt.bias + fmt.fracBits)) else none
  | .div =>
    if y = 0 then none
    else if y ∣ x * 2 ^ (fmt.bias + fmt.fracBits) then some (x * 2 ^ (fmt.bias + fmt.fracBits) / y) else none

/-- An exact result of zero: +0 where two non-zero numbers cancel; elsewhere R202 does not say which zero, and the sign
is free (log 16). -/
def zeroResult (w : Nat) (op : FpOp) (a b : BitVec w) (x : Int) : FpResult w :=
  if (op = .add ∨ op = .sub) ∧ x ≠ 0 then .ok 0#w
  else .ok (if Config.fpZeroNegative w op a b then BitVec.twoPow w (w - 1) else 0#w)

/-- `FpArith(op, fmt, a, b)` (46_float.md R201) with FpExact (R202): the exact result where both operands are zero or
normal and it is a normal number or zero of the format; everything else is open (93 U4; log 17). -/
def fpArith (w : Nat) (fmt : FpFormat) (op : FpOp) (a b : BitVec w) : FpResult w :=
  match fmt.value? a.toNat, fmt.value? b.toNat with
  | some x, some y =>
    match fmt.exact? op x y with
    | some n =>
      if n = 0 then zeroResult w op a b x
      else
        match fmt.pack? n with
        | some r => .ok (BitVec.ofNat w r)
        | none => Config.fpOpen w op a b
    | none => Config.fpOpen w op a b
  | _, _ => Config.fpOpen w op a b

end Sys2Proof.Machine
end

