-- ==== Sys2Proof/Machine/Float.lean ====
section
/-! DEFINITION. Floating-point arithmetic and moves (46_float.md). -/

namespace Sys2Proof.Machine

/-- A single-precision operation, fs the first operand and ft the second (46_float.md R201, R203). -/
def State.single (s : State) (op : FpOp) (fd fs ft : FReg) : Result :=
  s.finishSingle fd (fpArith 32 singleFormat op (s.f fs) (s.f ft))

/-- A double-precision operation on pairs; an odd register number is refused (46_float.md R204, R213). -/
def State.double (s : State) (op : FpOp) (fd fs ft : FReg) : Result :=
  if pairNumber fd && pairNumber fs && pairNumber ft then
    s.finishDouble fd (fpArith 64 doubleFormat op (s.pair fs) (s.pair ft))
  else .refused .oddDoubleRegister

/-- ADD.S (46_float.md R203). -/
def execAddS (fd fs ft : FReg) (s : State) : Result := s.single .add fd fs ft

/-- ADD.D (46_float.md R204). -/
def execAddD (fd fs ft : FReg) (s : State) : Result := s.double .add fd fs ft

/-- SUB.S (46_float.md R205). -/
def execSubS (fd fs ft : FReg) (s : State) : Result := s.single .sub fd fs ft

/-- SUB.D (46_float.md R206). -/
def execSubD (fd fs ft : FReg) (s : State) : Result := s.double .sub fd fs ft

/-- MUL.S (46_float.md R207). -/
def execMulS (fd fs ft : FReg) (s : State) : Result := s.single .mul fd fs ft

/-- MUL.D (46_float.md R208). -/
def execMulD (fd fs ft : FReg) (s : State) : Result := s.double .mul fd fs ft

/-- DIV.S (46_float.md R209). -/
def execDivS (fd fs ft : FReg) (s : State) : Result := s.single .div fd fs ft

/-- DIV.D (46_float.md R210). -/
def execDivD (fd fs ft : FReg) (s : State) : Result := s.double .div fd fs ft

/-- MOV.S: the 32 bits, uninterpreted (46_float.md R211). -/
def execMovS (fd fs : FReg) (s : State) : Result := .next (s.setF fd (s.f fs)).advance

/-- MOV.D: each register to the one in the same position, both reads before both writes; an odd register number is
refused (46_float.md R212, R213). -/
def execMovD (fd fs : FReg) (s : State) : Result :=
  if pairNumber fd && pairNumber fs then
    .next ((s.setF fd (s.f fs)).setF (fd + 1) (s.f (fs + 1))).advance
  else .refused .oddDoubleRegister

end Sys2Proof.Machine
end

