-- ==== Sys2Proof/Machine/Immediate.lean ====
section
/-! DEFINITION. Immediate arithmetic, compare and logic (41_immediate.md). -/

namespace Sys2Proof.Machine

/-- ADDI: the sum with the sign-extended immediate, or IntegerOverflow (41_immediate.md R131). -/
def execAddi (rt rs : Reg) (imm : Half) (s : State) : Result :=
  s.finishChecked rt (addOverflow (s.x rs) (signExtImm imm)) (s.x rs + signExtImm imm)

/-- ADDIU: the sum with the sign-extended immediate modulo 2^32 (41_immediate.md R132). -/
def execAddiu (rt rs : Reg) (imm : Half) (s : State) : Result :=
  s.finishX rt (s.x rs + signExtImm imm)

/-- SLTI: 1 or 0 by the signed comparison with the sign-extended immediate (41_immediate.md R133). -/
def execSlti (rt rs : Reg) (imm : Half) (s : State) : Result :=
  s.finishX rt (boolWord (lessSigned (s.x rs) (signExtImm imm)))

/-- SLTIU: 1 or 0 by the unsigned comparison with the sign-extended immediate (41_immediate.md R134). -/
def execSltiu (rt rs : Reg) (imm : Half) (s : State) : Result :=
  s.finishX rt (boolWord (lessUnsigned (s.x rs) (signExtImm imm)))

/-- ANDI: with the zero-extended immediate (41_immediate.md R135). -/
def execAndi (rt rs : Reg) (imm : Half) (s : State) : Result :=
  s.finishX rt (s.x rs &&& zeroExtImm imm)

/-- ORI: with the zero-extended immediate (41_immediate.md R136). -/
def execOri (rt rs : Reg) (imm : Half) (s : State) : Result :=
  s.finishX rt (s.x rs ||| zeroExtImm imm)

/-- XORI: with the zero-extended immediate (41_immediate.md R137). -/
def execXori (rt rs : Reg) (imm : Half) (s : State) : Result :=
  s.finishX rt (s.x rs ^^^ zeroExtImm imm)

end Sys2Proof.Machine
end

