-- ==== Sys2Proof/Machine/LoadStore.lean ====
section
/-! DEFINITION. Loads, stores and LUI (43_load_store_lui.md). The address is x[rs] + sext(imm); an illegal one raises
IllegalAddress, nothing read or written (R150). -/

namespace Sys2Proof.Machine

/-- LW (43_load_store_lui.md R151). -/
def execLw (rt : Reg) (imm : Half) (rs : Reg) (s : State) : Result :=
  let ea := s.effectiveAddress rs imm
  s.loadThen ea 4 (s.wordAt ea) (fun v => s.setX rt v)

/-- SW (43_load_store_lui.md R152). -/
def execSw (rt : Reg) (imm : Half) (rs : Reg) (s : State) : Result :=
  s.store (s.effectiveAddress rs imm) 4 (splitWord s.platform.byteOrder (s.x rt))

/-- LBU: the byte zero-extended (43_load_store_lui.md R153). -/
def execLbu (rt : Reg) (imm : Half) (rs : Reg) (s : State) : Result :=
  let ea := s.effectiveAddress rs imm
  s.loadThen ea 1 (s.byteAt ea) (fun v => s.setX rt (v.zeroExtend 32))

/-- LB: the byte sign-extended (43_load_store_lui.md R154). -/
def execLb (rt : Reg) (imm : Half) (rs : Reg) (s : State) : Result :=
  let ea := s.effectiveAddress rs imm
  s.loadThen ea 1 (s.byteAt ea) (fun v => s.setX rt (v.signExtend 32))

/-- LHU: the halfword zero-extended (43_load_store_lui.md R155). -/
def execLhu (rt : Reg) (imm : Half) (rs : Reg) (s : State) : Result :=
  let ea := s.effectiveAddress rs imm
  s.loadThen ea 2 (s.halfAt ea) (fun v => s.setX rt (v.zeroExtend 32))

/-- LH: the halfword sign-extended (43_load_store_lui.md R156). -/
def execLh (rt : Reg) (imm : Half) (rs : Reg) (s : State) : Result :=
  let ea := s.effectiveAddress rs imm
  s.loadThen ea 2 (s.halfAt ea) (fun v => s.setX rt (v.signExtend 32))

/-- SB: the low byte (43_load_store_lui.md R157). -/
def execSb (rt : Reg) (imm : Half) (rs : Reg) (s : State) : Result :=
  s.store (s.effectiveAddress rs imm) 1 [lowByte (s.x rt)]

/-- SH: the low halfword (43_load_store_lui.md R158). -/
def execSh (rt : Reg) (imm : Half) (rs : Reg) (s : State) : Result :=
  s.store (s.effectiveAddress rs imm) 2 (splitHalf s.platform.byteOrder (lowHalf (s.x rt)))

/-- LWC1: the 32 bits, uninterpreted (43_load_store_lui.md R159). -/
def execLwc1 (ft : FReg) (imm : Half) (rs : Reg) (s : State) : Result :=
  let ea := s.effectiveAddress rs imm
  s.loadThen ea 4 (s.wordAt ea) (fun v => s.setF ft v)

/-- SWC1 (43_load_store_lui.md R160). -/
def execSwc1 (ft : FReg) (imm : Half) (rs : Reg) (s : State) : Result :=
  s.store (s.effectiveAddress rs imm) 4 (splitWord s.platform.byteOrder (s.f ft))

/-- LUI (43_load_store_lui.md R161). -/
def execLui (rt : Reg) (imm : Half) (s : State) : Result := s.finishX rt (upperImm imm)

end Sys2Proof.Machine
end

