-- ==== Sys2Proof/Machine/Move.lean ====
section
/-! DEFINITION. Moves from Hi and Lo, and to and from coprocessor 0 (45_move_hilo_cop0.md). -/

namespace Sys2Proof.Machine

/-- MFHI (45_move_hilo_cop0.md R191). -/
def execMfhi (rd : Reg) (s : State) : Result := s.finishX rd s.hi

/-- MFLO (45_move_hilo_cop0.md R192). -/
def execMflo (rd : Reg) (s : State) : Result := s.finishX rd s.lo

/-- A coprocessor 0 move (45_move_hilo_cop0.md R195): refused where the number names no register of the spec, and in
user mode; the number is looked at first (log 20). -/
def State.cop0Then (s : State) (cd : CReg) (run : Cop0Reg → State) : Result :=
  match cop0Reg? cd, s.mode with
  | none, _ => .refused .cop0Register
  | some _, .user => .refused .cop0UserMode
  | some r, .kernel => .next (run r).advance

/-- MFC0 (45_move_hilo_cop0.md R193). -/
def execMfc0 (rt : Reg) (cd : CReg) (s : State) : Result := s.cop0Then cd (fun r => s.setX rt (s.c0 r))

/-- MTC0: all 32 bits (45_move_hilo_cop0.md R194). -/
def execMtc0 (cd : CReg) (rt : Reg) (s : State) : Result := s.cop0Then cd (fun r => s.setC0 r (s.x rt))

end Sys2Proof.Machine
end

