-- ==== Sys2Proof/Machine/Shift.lean ====
section
/-! DEFINITION. Shifts (42_shift.md). -/

namespace Sys2Proof.Machine

/-- SLL: zeros fill from the right (42_shift.md R141). -/
def execSll (rd rt : Reg) (sa : BitVec 5) (s : State) : Result := s.finishX rd (s.x rt <<< sa.toNat)

/-- SLLV: the amount is x[rs][4:0] (42_shift.md R142). -/
def execSllv (rd rt rs : Reg) (s : State) : Result := s.finishX rd (s.x rt <<< (shiftAmount (s.x rs)).toNat)

/-- SRL: zeros fill from the left (42_shift.md R143). -/
def execSrl (rd rt : Reg) (sa : BitVec 5) (s : State) : Result := s.finishX rd (s.x rt >>> sa.toNat)

/-- SRLV: the amount is x[rs][4:0] (42_shift.md R144). -/
def execSrlv (rd rt rs : Reg) (s : State) : Result := s.finishX rd (s.x rt >>> (shiftAmount (s.x rs)).toNat)

/-- SRA: copies of bit 31 fill from the left (42_shift.md R145). -/
def execSra (rd rt : Reg) (sa : BitVec 5) (s : State) : Result := s.finishX rd ((s.x rt).sshiftRight sa.toNat)

/-- SRAV: an arithmetic shift by x[rs][4:0]; 90_conflicts.md C1 (42_shift.md R146). -/
def execSrav (rd rt rs : Reg) (s : State) : Result :=
  s.finishX rd ((s.x rt).sshiftRight (shiftAmount (s.x rs)).toNat)

end Sys2Proof.Machine
end

