-- ==== Sys2Proof/Machine/System.lean ====
section
/-! DEFINITION. The system call (47_syscall.md). -/

namespace Sys2Proof.Machine

/-- SYSCALL: the exception with code 8 is its only effect, in either mode (47_syscall.md R220). -/
def execSyscall (s : State) : Result := s.raise .syscall

end Sys2Proof.Machine
end

