-- ==== Sys2Proof/Machine/Step.lean ====
section
/-! DEFINITION. One step of the core (10_state.md R26), and the placing of a word where the next fetch happens. -/

namespace Sys2Proof.Machine

/-- One step (10_state.md R26): fetch at `pc`, decode, perform the instruction's rule. -/
def step (s : State) : Host.Outcome State Fault Refusal :=
  s.fetchThen (fun w => s.decodeThen w (fun i => exec i s))

/-- `s` with the instruction of `nbits` bits `w` loaded where `step` fetches next: the four bytes at `pc` (log 13). -/
def State.withFetchWord (s : State) (nbits w : Nat) : State := s.placeWord (BitVec.ofNat 32 (w % 2 ^ nbits))

end Sys2Proof.Machine
end

