-- ==== Sys2Proof/WellFormed.lean ====
section
/-! DEFINITION. The operand values for which the spec gives an instruction a meaning: a double-precision instruction
names even registers (46_float.md R213), MFC0 and MTC0 name coprocessor 0 register 12, 13 or 14 (45_move_hilo_cop0.md
R195). The other words of those rows decode, and executing them is refused by name. Every other operand is in range by
its type. -/

namespace Sys2Proof

/-- `n` may name a pair: it is even, hence at most 30 (10_state.md R31). -/
abbrev evenPair (n : FReg) : Prop := n.val % 2 = 0

/-- `cd` is Status, Cause or EPC (10_state.md R33, R37). -/
abbrev namedCop0 (cd : CReg) : Prop := cd = 12 ∨ cd = 13 ∨ cd = 14

/-- The operands are ones the spec gives a meaning to. -/
def Instr.wellFormed : Instr → Bool
  | .addD fd fs ft | .subD fd fs ft | .mulD fd fs ft | .divD fd fs ft =>
    decide (evenPair fd ∧ evenPair fs ∧ evenPair ft)
  | .movD fd fs => decide (evenPair fd ∧ evenPair fs)
  | .mfc0 _ cd => decide (namedCop0 cd)
  | .mtc0 cd _ => decide (namedCop0 cd)
  | .add _ _ _ | .addu _ _ _ | .sub _ _ _ | .subu _ _ _ | .mult _ _ | .multu _ _ | .div _ _ | .divu _ _
  | .slt _ _ _ | .sltu _ _ _ | .and _ _ _ | .or _ _ _ | .nor _ _ _ | .xor _ _ _
  | .addi _ _ _ | .addiu _ _ _ | .slti _ _ _ | .sltiu _ _ _ | .andi _ _ _ | .ori _ _ _ | .xori _ _ _
  | .sll _ _ _ | .sllv _ _ _ | .srl _ _ _ | .srlv _ _ _ | .sra _ _ _ | .srav _ _ _
  | .lw _ _ _ | .sw _ _ _ | .lbu _ _ _ | .lb _ _ _ | .lhu _ _ _ | .lh _ _ _ | .sb _ _ _ | .sh _ _ _
  | .lwc1 _ _ _ | .swc1 _ _ _ | .lui _ _
  | .beq _ _ _ | .bne _ _ _ | .blez _ _ | .bgtz _ _ | .bltz _ _ | .j _ | .jal _ | .jr _ | .jalr _ _
  | .mfhi _ | .mflo _ | .addS _ _ _ | .subS _ _ _ | .mulS _ _ _ | .divS _ _ _ | .movS _ _ | .syscall => true

end Sys2Proof
end

