-- ==== Sys2Proof/Safety.lean ====
section
/-! DEFINITION. What counts as a good state and a safe run, and the words the statements are written in: what a
transition changes and what it keeps, said through the reads a program can make. -/

namespace Sys2Proof

open Machine

/-- The invariant of the core (70_reset_and_hazards.md R265 and the forms of the model's lists): memory is in its
canonical form, the stored-to addresses rise strictly and each holds a byte, and the slot behind x[0] is 0. -/
abbrev Machine.State.wf (s : State) : Prop :=
  Memory.wf s.mem ∧ s.stored.Pairwise (· < ·) ∧ (∀ a ∈ s.stored, (Memory.read? s.mem a).isSome = true) ∧
    s.gprs[0] = 0#32

/-- The run from `s` never stops: every number of steps ends in a next state (70_reset_and_hazards.md R272: the
hardware never stops). -/
def SafeRun (s : State) : Prop := ∀ n, ∃ t, Host.Core.run Sys2Proof.core n s = .next t

-- What a transition from `s` to `t` keeps.

/-- Every general register. -/
def KeepsX (s t : State) : Prop := ∀ r, t.x r = s.x r

/-- Every floating-point register. -/
def KeepsF (s t : State) : Prop := ∀ r, t.f r = s.f r

/-- Hi and Lo. -/
def KeepsHiLo (s t : State) : Prop := t.hi = s.hi ∧ t.lo = s.lo

/-- Status, Cause and EPC. -/
def KeepsCop0 (s t : State) : Prop := t.status = s.status ∧ t.cause = s.cause ∧ t.epc = s.epc

/-- Every byte of memory, and the set of stored-to bytes. -/
def KeepsMemory (s t : State) : Prop :=
  (∀ a, Memory.read? t.mem a = Memory.read? s.mem a) ∧ ∀ a, a ∈ t.stored ↔ a ∈ s.stored

/-- The parameters of the step. -/
def KeepsPlatform (s t : State) : Prop := t.platform = s.platform

/-- The count of free values drawn. -/
def KeepsDraws (s t : State) : Prop := t.draws = s.draws

-- What a transition changes. Each says of every part of the state but `pc` what it becomes.

/-- General register `rd` becomes `v` (nothing is written where `rd` is register 0, 10_state.md R21); all else is kept. -/
def WritesX (s t : State) (rd : Reg) (v : Word) : Prop :=
  (∀ r, t.x r = if r = rd ∧ rd ≠ 0 then v else s.x r) ∧ KeepsF s t ∧ KeepsHiLo s t ∧ KeepsCop0 s t ∧
    t.mode = s.mode ∧ KeepsMemory s t ∧ KeepsPlatform s t ∧ KeepsDraws s t

/-- Hi becomes `h` and Lo becomes `l`; all else is kept. -/
def WritesHiLo (s t : State) (h l : Word) : Prop :=
  t.hi = h ∧ t.lo = l ∧ KeepsX s t ∧ KeepsF s t ∧ KeepsCop0 s t ∧ t.mode = s.mode ∧ KeepsMemory s t ∧
    KeepsPlatform s t ∧ KeepsDraws s t

/-- Hi and Lo become anything; all else, but the count of free values drawn, is kept. -/
def LeavesHiLoOpen (s t : State) : Prop :=
  KeepsX s t ∧ KeepsF s t ∧ KeepsCop0 s t ∧ t.mode = s.mode ∧ KeepsMemory s t ∧ KeepsPlatform s t

/-- Floating-point register `fd` becomes `v`; all else is kept. -/
def WritesF (s t : State) (fd : FReg) (v : Word) : Prop :=
  (∀ r, t.f r = if r = fd then v else s.f r) ∧ KeepsX s t ∧ KeepsHiLo s t ∧ KeepsCop0 s t ∧ t.mode = s.mode ∧
    KeepsMemory s t ∧ KeepsPlatform s t ∧ KeepsDraws s t

/-- Floating-point register `fd` becomes `v` and its successor becomes `u`; all else is kept. -/
def WritesTwoF (s t : State) (fd : FReg) (v u : Word) : Prop :=
  (∀ r, t.f r = if r = fd then v else if r = fd + 1 then u else s.f r) ∧ KeepsX s t ∧ KeepsHiLo s t ∧ KeepsCop0 s t ∧
    t.mode = s.mode ∧ KeepsMemory s t ∧ KeepsPlatform s t ∧ KeepsDraws s t

/-- Coprocessor 0 register `cd` (12, 13 or 14) becomes `v`; all else is kept. -/
def WritesCop0 (s t : State) (cd : CReg) (v : Word) : Prop :=
  t.status = (if cd = 12 then v else s.status) ∧ t.cause = (if cd = 13 then v else s.cause) ∧
    t.epc = (if cd = 14 then v else s.epc) ∧ KeepsX s t ∧ KeepsF s t ∧ KeepsHiLo s t ∧ t.mode = s.mode ∧
    KeepsMemory s t ∧ KeepsPlatform s t ∧ KeepsDraws s t

/-- The bytes at `a`, `a + 1`, ... become `bs` and are stored-to bytes from then on; all else is kept. -/
def WritesMemory (s t : State) (a : Nat) (bs : List Byte) : Prop :=
  (∀ b, Memory.read? t.mem b = if a ≤ b ∧ b < a + bs.length then bs[b - a]? else Memory.read? s.mem b) ∧
    (∀ b, b ∈ t.stored ↔ b ∈ s.stored ∨ (a ≤ b ∧ b < a + bs.length)) ∧
    KeepsX s t ∧ KeepsF s t ∧ KeepsHiLo s t ∧ KeepsCop0 s t ∧ t.mode = s.mode ∧ KeepsPlatform s t ∧ KeepsDraws s t

/-- Nothing but `pc` changes. -/
def OnlyPc (s t : State) : Prop :=
  KeepsX s t ∧ KeepsF s t ∧ KeepsHiLo s t ∧ KeepsCop0 s t ∧ t.mode = s.mode ∧ KeepsMemory s t ∧ KeepsPlatform s t ∧
    KeepsDraws s t

/-- Exception entry with the given code (60_exceptions.md R232), and nothing else. -/
def EntersException (s t : State) (code : Word) : Prop :=
  t.epc = s.pc ∧ t.cause = code ∧ t.pc = 0x80000180#32 ∧ t.mode = .kernel ∧ t.status = s.status ∧ KeepsX s t ∧
    KeepsF s t ∧ KeepsHiLo s t ∧ KeepsMemory s t ∧ KeepsPlatform s t ∧ KeepsDraws s t

-- What an instruction names.

/-- The general register an instruction may change (10_state.md R22, R24). -/
def Instr.destX : Instr → Option Reg
  | .add rd _ _ | .addu rd _ _ | .sub rd _ _ | .subu rd _ _ | .slt rd _ _ | .sltu rd _ _ | .and rd _ _ | .or rd _ _
  | .nor rd _ _ | .xor rd _ _ | .sll rd _ _ | .sllv rd _ _ | .srl rd _ _ | .srlv rd _ _ | .sra rd _ _ | .srav rd _ _
  | .jalr rd _ | .mfhi rd | .mflo rd => some rd
  | .addi rt _ _ | .addiu rt _ _ | .slti rt _ _ | .sltiu rt _ _ | .andi rt _ _ | .ori rt _ _ | .xori rt _ _
  | .lw rt _ _ | .lbu rt _ _ | .lb rt _ _ | .lhu rt _ _ | .lh rt _ _ | .lui rt _ | .mfc0 rt _ => some rt
  | .jal _ => some 31
  | .mult _ _ | .multu _ _ | .div _ _ | .divu _ _ | .sw _ _ _ | .sb _ _ _ | .sh _ _ _ | .lwc1 _ _ _ | .swc1 _ _ _
  | .beq _ _ _ | .bne _ _ _ | .blez _ _ | .bgtz _ _ | .bltz _ _ | .j _ | .jr _ | .mtc0 _ _
  | .addS _ _ _ | .addD _ _ _ | .subS _ _ _ | .subD _ _ _ | .mulS _ _ _ | .mulD _ _ _ | .divS _ _ _ | .divD _ _ _
  | .movS _ _ | .movD _ _ | .syscall => none

/-- The floating-point registers an instruction may change (10_state.md R32): one, or a pair. -/
def Instr.destF : Instr → List FReg
  | .lwc1 ft _ _ => [ft]
  | .addS fd _ _ | .subS fd _ _ | .mulS fd _ _ | .divS fd _ _ | .movS fd _ => [fd]
  | .addD fd _ _ | .subD fd _ _ | .mulD fd _ _ | .divD fd _ _ | .movD fd _ => [fd, fd + 1]
  | .add _ _ _ | .addu _ _ _ | .sub _ _ _ | .subu _ _ _ | .mult _ _ | .multu _ _ | .div _ _ | .divu _ _
  | .slt _ _ _ | .sltu _ _ _ | .and _ _ _ | .or _ _ _ | .nor _ _ _ | .xor _ _ _
  | .addi _ _ _ | .addiu _ _ _ | .slti _ _ _ | .sltiu _ _ _ | .andi _ _ _ | .ori _ _ _ | .xori _ _ _
  | .sll _ _ _ | .sllv _ _ _ | .srl _ _ _ | .srlv _ _ _ | .sra _ _ _ | .srav _ _ _
  | .lw _ _ _ | .sw _ _ _ | .lbu _ _ _ | .lb _ _ _ | .lhu _ _ _ | .lh _ _ _ | .sb _ _ _ | .sh _ _ _
  | .swc1 _ _ _ | .lui _ _
  | .beq _ _ _ | .bne _ _ _ | .blez _ _ | .bgtz _ _ | .bltz _ _ | .j _ | .jal _ | .jr _ | .jalr _ _
  | .mfhi _ | .mflo _ | .mfc0 _ _ | .mtc0 _ _ | .syscall => []

/-- Base register, offset and number of bytes of a store (20_memory.md R51, R54). -/
def Instr.storeAccess : Instr → Option (Reg × Half × Nat)
  | .sw _ imm rs | .swc1 _ imm rs => some (rs, imm, 4)
  | .sh _ imm rs => some (rs, imm, 2)
  | .sb _ imm rs => some (rs, imm, 1)
  | .add _ _ _ | .addu _ _ _ | .sub _ _ _ | .subu _ _ _ | .mult _ _ | .multu _ _ | .div _ _ | .divu _ _
  | .slt _ _ _ | .sltu _ _ _ | .and _ _ _ | .or _ _ _ | .nor _ _ _ | .xor _ _ _
  | .addi _ _ _ | .addiu _ _ _ | .slti _ _ _ | .sltiu _ _ _ | .andi _ _ _ | .ori _ _ _ | .xori _ _ _
  | .sll _ _ _ | .sllv _ _ _ | .srl _ _ _ | .srlv _ _ _ | .sra _ _ _ | .srav _ _ _
  | .lw _ _ _ | .lbu _ _ _ | .lb _ _ _ | .lhu _ _ _ | .lh _ _ _ | .lwc1 _ _ _ | .lui _ _
  | .beq _ _ _ | .bne _ _ _ | .blez _ _ | .bgtz _ _ | .bltz _ _ | .j _ | .jal _ | .jr _ | .jalr _ _
  | .mfhi _ | .mflo _ | .mfc0 _ _ | .mtc0 _ _
  | .addS _ _ _ | .addD _ _ _ | .subS _ _ _ | .subD _ _ _ | .mulS _ _ _ | .mulD _ _ _ | .divS _ _ _ | .divD _ _ _
  | .movS _ _ | .movD _ _ | .syscall => none

/-- Base register, offset and number of bytes of a load (20_memory.md R51, R54). -/
def Instr.loadAccess : Instr → Option (Reg × Half × Nat)
  | .lw _ imm rs | .lwc1 _ imm rs => some (rs, imm, 4)
  | .lhu _ imm rs | .lh _ imm rs => some (rs, imm, 2)
  | .lbu _ imm rs | .lb _ imm rs => some (rs, imm, 1)
  | .add _ _ _ | .addu _ _ _ | .sub _ _ _ | .subu _ _ _ | .mult _ _ | .multu _ _ | .div _ _ | .divu _ _
  | .slt _ _ _ | .sltu _ _ _ | .and _ _ _ | .or _ _ _ | .nor _ _ _ | .xor _ _ _
  | .addi _ _ _ | .addiu _ _ _ | .slti _ _ _ | .sltiu _ _ _ | .andi _ _ _ | .ori _ _ _ | .xori _ _ _
  | .sll _ _ _ | .sllv _ _ _ | .srl _ _ _ | .srlv _ _ _ | .sra _ _ _ | .srav _ _ _
  | .sw _ _ _ | .sb _ _ _ | .sh _ _ _ | .swc1 _ _ _ | .lui _ _
  | .beq _ _ _ | .bne _ _ _ | .blez _ _ | .bgtz _ _ | .bltz _ _ | .j _ | .jal _ | .jr _ | .jalr _ _
  | .mfhi _ | .mflo _ | .mfc0 _ _ | .mtc0 _ _
  | .addS _ _ _ | .addD _ _ _ | .subS _ _ _ | .subD _ _ _ | .mulS _ _ _ | .mulD _ _ _ | .divS _ _ _ | .divD _ _ _
  | .movS _ _ | .movD _ _ | .syscall => none

/-- A conditional branch or a jump (44_branch_jump.md). -/
def Instr.isTransfer : Instr → Bool
  | .beq _ _ _ | .bne _ _ _ | .blez _ _ | .bgtz _ _ | .bltz _ _ | .j _ | .jal _ | .jr _ | .jalr _ _ => true
  | .add _ _ _ | .addu _ _ _ | .sub _ _ _ | .subu _ _ _ | .mult _ _ | .multu _ _ | .div _ _ | .divu _ _
  | .slt _ _ _ | .sltu _ _ _ | .and _ _ _ | .or _ _ _ | .nor _ _ _ | .xor _ _ _
  | .addi _ _ _ | .addiu _ _ _ | .slti _ _ _ | .sltiu _ _ _ | .andi _ _ _ | .ori _ _ _ | .xori _ _ _
  | .sll _ _ _ | .sllv _ _ _ | .srl _ _ _ | .srlv _ _ _ | .sra _ _ _ | .srav _ _ _
  | .lw _ _ _ | .sw _ _ _ | .lbu _ _ _ | .lb _ _ _ | .lhu _ _ _ | .lh _ _ _ | .sb _ _ _ | .sh _ _ _
  | .lwc1 _ _ _ | .swc1 _ _ _ | .lui _ _ | .mfhi _ | .mflo _ | .mfc0 _ _ | .mtc0 _ _
  | .addS _ _ _ | .addD _ _ _ | .subS _ _ _ | .subD _ _ _ | .mulS _ _ _ | .mulD _ _ _ | .divS _ _ _ | .divD _ _ _
  | .movS _ _ | .movD _ _ | .syscall => false

/-- The unsigned number a list of bytes in memory order stands for (20_memory.md R52). -/
def bytesValue (o : ByteOrder) (bs : List Byte) : Nat :=
  match o with
  | .big    => bs.foldl (fun n b => n * 256 + b.toNat) 0
  | .little => bs.foldr (fun b n => b.toNat + 256 * n) 0

/-- The bytes from `a` on hold `bs`. -/
def MemoryHolds (s : State) (a : Nat) (bs : List Byte) : Prop := ∀ k, k < bs.length → Memory.read? s.mem (a + k) = bs[k]?

/-- `bits` is the pattern of a zero or of a normal number of the format, and `x` is the number it stands for: sign bit,
exponent field, fraction field, most significant first (46_float.md R202). -/
def FpNumber (fmt : FpFormat) (bits : Nat) (x : ℚ) : Prop :=
  ∃ sign exp frac : Nat, sign < 2 ∧ frac < 2 ^ fmt.fracBits ∧
    bits = (sign * 2 ^ fmt.expBits + exp) * 2 ^ fmt.fracBits + frac ∧
    ((exp = 0 ∧ frac = 0 ∧ x = 0) ∨
      (1 ≤ exp ∧ exp + 1 < 2 ^ fmt.expBits ∧
        x = (-1) ^ sign * (2 ^ fmt.fracBits + frac) * 2 ^ ((exp : ℤ) - fmt.bias - fmt.fracBits)))

/-- The exact result of an operation on two numbers (46_float.md R201). -/
def FpOp.exact : FpOp → ℚ → ℚ → ℚ
  | .add, x, y => x + y
  | .sub, x, y => x - y
  | .mul, x, y => x * y
  | .div, x, y => x / y

end Sys2Proof
end

