-- ==== Sys2Proof/Certificates/Slice0/Obligations.lean ====
section
/-! DEFINITION. The statements for the provers, in the order of OBLIGATIONS.json: encoding; the step; reset; what every
step keeps; memory; floating-point arithmetic; then each instruction's result, its frame and that it completes. Where a
statement rests on a choice of the model its docstring names the log entry. -/

open Sys2Proof Sys2Proof.Machine

-- Encoding.

/-- O1, 30_encoding.md R81 to R92. Decoding inverts encoding, for every instruction, every operand value and both byte
orders. SYSCALL's ignored bits are written as zeros (log 29). -/
def Obligations.DecodeInvertsEncode : Prop :=
  ∀ i : Instr, decodeWord (encode i) = .ok i ∧ ∀ o rest, decode o (encodeBytes o i ++ rest) = .ok i

/-- O2, 30_encoding.md R95. Two words that are one instruction are the same word, unless the instruction is SYSCALL;
every word with op-code 000000 and funct 001100 is SYSCALL, and whatever its bits 25..6 are, the step does the same. -/
def Obligations.OnlySyscallHasIgnoredBits : Prop :=
  (∀ v w i, decodeWord v = .ok i → decodeWord w = .ok i → i ≠ .syscall → v = w) ∧
    (∀ w, decodeWord w = .ok .syscall ↔ ∃ ignored : BitVec 20, w = 0b000000#6 ++ ignored ++ 0b001100#6) ∧
    ∀ (s : State) (ignored : BitVec 20), s.fetch = .word (0b000000#6 ++ ignored ++ 0b001100#6) → step s = exec .syscall s

/-- O3, spec/opcode_table.json and 30_encoding.md R94. A word is an instruction exactly when it matches a row of the
table, and then it matches the row of the instruction it decodes to. -/
def Obligations.WordDecodesIffRowMatches : Prop :=
  ∀ w : Word, ((∃ i, decodeWord w = .ok i) ↔ ∃ r ∈ opcodeTable, w &&& r.1 = r.2) ∧
    ∀ i, decodeWord w = .ok i → i.row ∈ opcodeTable ∧ w &&& i.row.1 = i.row.2

/-- O4. The spec's example words decode to the instructions it prints beside them: one or two of each family. -/
def Obligations.SampleWordsDecode : Prop :=
  decodeWord 0x00221820#32 = .ok (.add 3 1 2) ∧ decodeWord 0x0022001A#32 = .ok (.div 1 2) ∧
    decodeWord 0x2022FFFF#32 = .ok (.addi 2 1 0xFFFF#16) ∧ decodeWord 0x00021900#32 = .ok (.sll 3 2 4#5) ∧
    decodeWord 0x00221804#32 = .ok (.sllv 3 2 1) ∧ decodeWord 0x8C220008#32 = .ok (.lw 2 8#16 1) ∧
    decodeWord 0xE4220008#32 = .ok (.swc1 2 8#16 1) ∧ decodeWord 0x3C021234#32 = .ok (.lui 2 0x1234#16) ∧
    decodeWord 0x1820FFFE#32 = .ok (.blez 1 0xFFFE#16) ∧ decodeWord 0x0C100008#32 = .ok (.jal 0x0100008#26) ∧
    decodeWord 0x0040F809#32 = .ok (.jalr 31 2) ∧ decodeWord 0x40827000#32 = .ok (.mtc0 14 2) ∧
    decodeWord 0x44010080#32 = .ok (.addS 2 0 1) ∧ decodeWord 0x44200086#32 = .ok (.movD 2 0) ∧
    decodeWord 0x03FFFFCC#32 = .ok .syscall

/-- O5, 30_encoding.md section 3. The table has 62 rows and no word matches two of them. -/
def Obligations.OpcodeRowsDisjoint : Prop :=
  opcodeTable.length = 62 ∧
    opcodeTable.Pairwise (fun r q => ∀ w : Word, ¬ (w &&& r.1 = r.2 ∧ w &&& q.1 = q.2))

-- The step.

/-- O6, 10_state.md R26. Where `pc` is aligned and legal, none of the four bytes there was stored to by the run and they
decode to `i`, the step is `exec i`: nothing is done around it. -/
def Obligations.StepRunsDecodedInstruction : Prop :=
  ∀ (s : State) (b0 b1 b2 b3 : Byte) (i : Instr), s.pc.toNat % 4 = 0 → legalAddr s.platform s.mode s.pc 4 .fetch = true →
    (∀ k, k < 4 → s.pc.toNat + k ∉ s.stored) → MemoryHolds s s.pc.toNat [b0, b1, b2, b3] →
    decode s.platform.byteOrder [b0, b1, b2, b3] = .ok i → step s = exec i s

/-- O7, 60_exceptions.md R235, R239. A fetch from an illegal `pc` raises IllegalAddress, whatever memory holds. -/
def Obligations.IllegalFetchRaises : Prop :=
  ∀ s : State, s.pc.toNat % 4 ≠ 0 ∨ legalAddr s.platform s.mode s.pc 4 .fetch = false →
    ∃ t, step s = .next t ∧ EntersException s t 4#32

/-- O8, 60_exceptions.md R237, 30_encoding.md R94. A fetched word that matches no row raises IllegalOpcode. -/
def Obligations.IllegalOpcodeRaises : Prop :=
  ∀ (s : State) (b0 b1 b2 b3 : Byte), s.pc.toNat % 4 = 0 → legalAddr s.platform s.mode s.pc 4 .fetch = true →
    (∀ k, k < 4 → s.pc.toNat + k ∉ s.stored) → MemoryHolds s s.pc.toNat [b0, b1, b2, b3] →
    (∀ r ∈ opcodeTable, BitVec.ofNat 32 (bytesValue s.platform.byteOrder [b0, b1, b2, b3]) &&& r.1 ≠ r.2) →
    ∃ t, step s = .next t ∧ EntersException s t 10#32

/-- O9, 20_memory.md R62; 93 U3. A legal fetch stops with a refusal where a byte of the word was stored to by the run,
and else with a fault where a byte has no value. The order of the two and the fault are the model's choice (logs 21,
10). -/
def Obligations.LegalFetchStops : Prop :=
  ∀ s : State, s.pc.toNat % 4 = 0 → legalAddr s.platform s.mode s.pc 4 .fetch = true →
    ((∃ k, k < 4 ∧ s.pc.toNat + k ∈ s.stored) → step s = .refused .selfModifyingCode) ∧
      ((∀ k, k < 4 → s.pc.toNat + k ∉ s.stored) → (∃ k, k < 4 ∧ Memory.read? s.mem (s.pc.toNat + k) = none) →
        step s = .fault .unwrittenFetch)

/-- O10, 60_exceptions.md R242. If the vector cannot be fetched, then from an exception entry on the machine takes the
same exception again and again, with EPC at the vector and all else unchanged: it makes no progress and never stops. -/
def Obligations.UnfetchableVectorLoops : Prop :=
  ∀ s : State, s.pc = 0x80000180#32 → s.mode = .kernel →
    legalAddr s.platform .kernel 0x80000180#32 4 .fetch = false →
    SafeRun s ∧ ∀ n, ∃ t, Host.Core.run Sys2Proof.core (n + 1) s = .next t ∧ EntersException s t 4#32

-- Reset.

/-- O11, 10_state.md R42. After reset the mode is kernel, `pc` is RESET_PC (the suggested default, log 5) and a multiple
of 4, and x[0] is 0. The model's choice is the rest: the zeros of the other registers (logs 6 to 9), and that no byte of
memory has a value (log 28) and none was stored to (log 12), where the spec says only that memory holds what the
platform loaded. -/
def Obligations.ResetValues : Prop :=
  State.reset.mode = .kernel ∧ State.reset.pc = 0xBFC00000#32 ∧ State.reset.pc.toNat % 4 = 0 ∧
    (∀ r, State.reset.x r = 0#32) ∧ (∀ r, State.reset.f r = 0#32) ∧ State.reset.hi = 0#32 ∧ State.reset.lo = 0#32 ∧
    State.reset.status = 0#32 ∧ State.reset.cause = 0#32 ∧ State.reset.epc = 0#32 ∧
    (∀ a, Memory.read? State.reset.mem a = none) ∧ State.reset.stored = []

/-- O12. The state after reset satisfies the invariant of O13. -/
def Obligations.ResetMeetsInvariant : Prop := State.reset.wf

-- What every step keeps.

/-- O13, 10_state.md R20, R21, R39. From every state that satisfies it, the invariant is kept by every step: memory in
canonical form inside the 2^32 addresses, the stored-to addresses rising and each holding a byte, the slot of x[0] 0.
The stored-to addresses as a field of State are the model's choice (log 12). -/
def Obligations.StepKeepsInvariant : Prop := ∀ s t : State, s.wf → step s = .next t → t.wf

/-- O14, 10_state.md R41, 20_memory.md R62. No step changes a parameter. Where a byte of the word at `pc` was stored to
by the run, the only next state a step can answer is the IllegalAddress entry of an illegal fetch: the word is not
executed. -/
def Obligations.StepKeepsPlatform : Prop :=
  ∀ s t : State, step s = .next t → KeepsPlatform s t ∧
    ((∃ k, k < 4 ∧ s.pc.toNat + k ∈ s.stored) → EntersException s t 4#32)

/-- O15, 10_state.md R38, 60_exceptions.md R245. A step that changes the mode is an exception entry, it enters kernel
mode, and its code is one of the five. So no step leaves kernel mode. -/
def Obligations.ModeChangesOnlyByException : Prop :=
  ∀ s t : State, step s = .next t →
    (t.mode ≠ s.mode → s.mode = .user ∧ ∃ code, code ∈ [4#32, 8#32, 10#32, 12#32, 15#32] ∧ EntersException s t code) ∧
      (s.mode = .kernel → t.mode = .kernel)

/-- O16, 20_memory.md R51, R56. An instruction that is no store changes no byte of memory; a store changes none outside
the bytes at its effective address, as many as its width. -/
def Obligations.OnlyStoresChangeMemory : Prop :=
  ∀ (i : Instr) (s t : State), exec i s = .next t →
    match i.storeAccess with
    | none => KeepsMemory s t
    | some (base, imm, n) =>
      let ea := (s.x base + imm.signExtend 32).toNat
      ∀ a, ¬ (ea ≤ a ∧ a < ea + n) → Memory.read? t.mem a = Memory.read? s.mem a ∧ (a ∈ t.stored ↔ a ∈ s.stored)

/-- O17, 10_state.md R29. An instruction that changes Hi or Lo is MULT, MULTU, DIV or DIVU. -/
def Obligations.OnlyMultiplyDivideChangeHiLo : Prop :=
  ∀ (i : Instr) (s t : State), exec i s = .next t →
    KeepsHiLo s t ∨ ∃ rs rt, i = .mult rs rt ∨ i = .multu rs rt ∨ i = .div rs rt ∨ i = .divu rs rt

/-- O18, 10_state.md R21, R22. An instruction changes no general register but the one its fields name as destination
(x[31] for JAL), and x[0] reads 0 before and after. -/
def Obligations.OnlyDestinationRegisterChanges : Prop :=
  ∀ (i : Instr) (s t : State), exec i s = .next t →
    (∀ r, i.destX ≠ some r → t.x r = s.x r) ∧ s.x 0 = 0#32 ∧ t.x 0 = 0#32

/-- O19, 10_state.md R32. An instruction changes no floating-point register but those it names as destination: LWC1 and
the single-precision ones one, the double-precision ones a pair, every other instruction none. -/
def Obligations.OnlyFloatDestinationsChange : Prop :=
  ∀ (i : Instr) (s t : State), exec i s = .next t → ∀ r, r ∉ i.destF → t.f r = s.f r

/-- O20, 10_state.md R34 to R36. An instruction that changes Status is MTC0 of register 12; one that changes Cause or EPC
is MTC0 of register 13 or 14, or enters an exception. -/
def Obligations.Cop0ChangesOnlyByMtc0OrException : Prop :=
  ∀ (i : Instr) (s t : State), exec i s = .next t →
    (t.status ≠ s.status → ∃ rt, i = .mtc0 12 rt) ∧
      (t.cause ≠ s.cause → (∃ rt, i = .mtc0 13 rt) ∨ ∃ code, EntersException s t code) ∧
      (t.epc ≠ s.epc → (∃ rt, i = .mtc0 14 rt) ∨ ∃ code, EntersException s t code)

/-- O21, 10_state.md R28, 44_branch_jump.md R180. Every instruction but JR and JALR leaves an aligned `pc` aligned. -/
def Obligations.PcStaysAligned : Prop :=
  ∀ (i : Instr) (s t : State), exec i s = .next t → s.pc.toNat % 4 = 0 →
    (∀ rs, i ≠ .jr rs) → (∀ rd rs, i ≠ .jalr rd rs) → t.pc.toNat % 4 = 0

/-- O22, 10_state.md R27. An instruction that is no branch and no jump ends with `pc + 4` or enters an exception, whose
code is one of four; a branch or a jump enters none. -/
def Obligations.NextPcCases : Prop :=
  ∀ (i : Instr) (s t : State), exec i s = .next t →
    (i.isTransfer = false → t.pc = s.pc + 4#32 ∨
      ∃ code, code ∈ [4#32, 8#32, 12#32, 15#32] ∧ EntersException s t code) ∧
      (i.isTransfer = true → t.mode = s.mode ∧ KeepsCop0 s t)

/-- O23, 93 U3, U6, U7, U8. An instruction stops only so: a load of a legal address, one byte of which has no value
(the fault is the model's choice, log 10); a double-precision instruction or a coprocessor 0 move with a register number
the spec gives no meaning; a coprocessor 0 move of one of the three registers in user mode. That a move with another
register number has the first refusal in user mode too is the model's choice (log 20). -/
def Obligations.InstructionStopsOnlyWhereSpecSays : Prop :=
  ∀ (i : Instr) (s : State),
    (∀ r, exec i s = .fault r → r = .unwrittenLoad ∧ ∃ base imm n, i.loadAccess = some (base, imm, n) ∧
      let ea := s.x base + imm.signExtend 32
      ea.toNat % n = 0 ∧ legalAddr s.platform s.mode ea n .load = true ∧
        ∃ k, k < n ∧ Memory.read? s.mem (ea.toNat + k) = none) ∧
    (∀ r, exec i s = .refused r →
      (r = .oddDoubleRegister ∧ i.wellFormed = false ∧ i.destF.length = 2) ∨
        (∃ cd rt, (i = .mfc0 rt cd ∨ i = .mtc0 cd rt) ∧
          ((r = .cop0Register ∧ i.wellFormed = false) ∨ (r = .cop0UserMode ∧ i.wellFormed = true ∧ s.mode = .user))))

-- Memory.

/-- O24, 20_memory.md R52, R56. Reading at the address and width just stored returns the value stored, in either byte
order, and every byte outside reads as before. -/
def Obligations.StoredValueReadsBack : Prop :=
  ∀ (s : State) (a : Word),
    (∀ v : Byte, (s.putBytes a [v]).byteAt a = some v ∧
      ∀ b, b ≠ a.toNat → Memory.read? (s.putBytes a [v]).mem b = Memory.read? s.mem b) ∧
    (∀ v : Half, (s.putBytes a (splitHalf s.platform.byteOrder v)).halfAt a = some v ∧
      ∀ b, ¬ (a.toNat ≤ b ∧ b < a.toNat + 2) →
        Memory.read? (s.putBytes a (splitHalf s.platform.byteOrder v)).mem b = Memory.read? s.mem b) ∧
    (∀ v : Word, (s.putBytes a (splitWord s.platform.byteOrder v)).wordAt a = some v ∧
      ∀ b, ¬ (a.toNat ≤ b ∧ b < a.toNat + 4) →
        Memory.read? (s.putBytes a (splitWord s.platform.byteOrder v)).mem b = Memory.read? s.mem b)

/-- O25, 20_memory.md R53. After the word 0x11223344 is stored at a multiple of 4, the byte there is 0x11 in big and
0x44 in little byte order, and the halfword two bytes on 0x3344 in big and 0x1122 in little. -/
def Obligations.NarrowReadsSeeByteOrder : Prop :=
  ∀ (s : State) (a : Word), a.toNat % 4 = 0 →
    let t := s.putBytes a (splitWord s.platform.byteOrder 0x11223344#32)
    match s.platform.byteOrder with
    | .big    => t.byteAt a = some 0x11#8 ∧ t.halfAt (a + 2#32) = some 0x3344#16
    | .little => t.byteAt a = some 0x44#8 ∧ t.halfAt (a + 2#32) = some 0x1122#16

/-- O26, 00_scope.md section 3 (LegalAddr). Every predicate on mode, address, kind and the three sizes is the legality
of some list of holes: the form the model gives LegalAddr (log 3) leaves out none. -/
def Obligations.HolesExpressEveryPredicate : Prop :=
  ∀ P : Mode → Word → Nat → AccessKind → Bool, ∃ holes : List Hole, ∀ p : Platform, p.holes = holes →
    ∀ m a n k, n ∈ [1, 2, 4] → legalAddr p m a n k = P m a n k

-- Floating-point arithmetic.

/-- O27, 46_float.md R202, FpExact. That FpArith meets FpExact is the model's choice: the spec only recommends it
(log 14). For both formats: of two zeros or normal numbers, the divisor not zero, an exact result that is a normal number
other than zero is returned, and a cancellation to zero of a number other than zero returns +0. That +0 is given for
exactly these cancellations (log 16) and that subnormal operands are left open (log 15) are the model's choices too. -/
def Obligations.FpExactResult : Prop :=
  ∀ op : FpOp,
    (∀ (a b r : Word) (x y : ℚ), FpNumber singleFormat a.toNat x → FpNumber singleFormat b.toNat y →
      (op = .div → y ≠ 0) → op.exact x y ≠ 0 → FpNumber singleFormat r.toNat (op.exact x y) →
      fpArith 32 singleFormat op a b = .ok r) ∧
    (∀ (a b r : Double) (x y : ℚ), FpNumber doubleFormat a.toNat x → FpNumber doubleFormat b.toNat y →
      (op = .div → y ≠ 0) → op.exact x y ≠ 0 → FpNumber doubleFormat r.toNat (op.exact x y) →
      fpArith 64 doubleFormat op a b = .ok r) ∧
    (op = .add ∨ op = .sub →
      (∀ (a b : Word) (x y : ℚ), FpNumber singleFormat a.toNat x → FpNumber singleFormat b.toNat y → x ≠ 0 →
        op.exact x y = 0 → fpArith 32 singleFormat op a b = .ok 0#32) ∧
      (∀ (a b : Double) (x y : ℚ), FpNumber doubleFormat a.toNat x → FpNumber doubleFormat b.toNat y → x ≠ 0 →
        op.exact x y = 0 → fpArith 64 doubleFormat op a b = .ok 0#64))

-- Register arithmetic, compare and logic; immediates.

/-- O28, R111, R113, R131. ADD, SUB and ADDI write the exact signed result where it fits 32 bits. -/
def Obligations.CheckedSumResult : Prop :=
  ∀ (s : State) (rd rs rt : Reg) (imm : Half),
    (-2 ^ 31 ≤ (s.x rs).toInt + (s.x rt).toInt → (s.x rs).toInt + (s.x rt).toInt ≤ 2 ^ 31 - 1 →
      ∃ t v, exec (.add rd rs rt) s = .next t ∧ t.pc = s.pc + 4#32 ∧ WritesX s t rd v ∧
        v.toInt = (s.x rs).toInt + (s.x rt).toInt) ∧
    (-2 ^ 31 ≤ (s.x rs).toInt - (s.x rt).toInt → (s.x rs).toInt - (s.x rt).toInt ≤ 2 ^ 31 - 1 →
      ∃ t v, exec (.sub rd rs rt) s = .next t ∧ t.pc = s.pc + 4#32 ∧ WritesX s t rd v ∧
        v.toInt = (s.x rs).toInt - (s.x rt).toInt) ∧
    (-2 ^ 31 ≤ (s.x rs).toInt + imm.toInt → (s.x rs).toInt + imm.toInt ≤ 2 ^ 31 - 1 →
      ∃ t v, exec (.addi rt rs imm) s = .next t ∧ t.pc = s.pc + 4#32 ∧ WritesX s t rt v ∧
        v.toInt = (s.x rs).toInt + imm.toInt)

/-- O29, R111, R113, R131, 30_encoding.md R97. Where the exact signed result does not fit 32 bits, ADD, SUB and ADDI
raise IntegerOverflow and write no register, x[0] as destination included. -/
def Obligations.OverflowTraps : Prop :=
  ∀ (s : State) (rd rs rt : Reg) (imm : Half),
    ((s.x rs).toInt + (s.x rt).toInt < -2 ^ 31 ∨ (s.x rs).toInt + (s.x rt).toInt > 2 ^ 31 - 1 →
      ∃ t, exec (.add rd rs rt) s = .next t ∧ EntersException s t 12#32) ∧
    ((s.x rs).toInt - (s.x rt).toInt < -2 ^ 31 ∨ (s.x rs).toInt - (s.x rt).toInt > 2 ^ 31 - 1 →
      ∃ t, exec (.sub rd rs rt) s = .next t ∧ EntersException s t 12#32) ∧
    ((s.x rs).toInt + imm.toInt < -2 ^ 31 ∨ (s.x rs).toInt + imm.toInt > 2 ^ 31 - 1 →
      ∃ t, exec (.addi rt rs imm) s = .next t ∧ EntersException s t 12#32)

/-- O30, 60_exceptions.md R238. Overflow by sign bits: a sum overflows when the operands have the same sign and the sum
the other; a difference `a - b` when the operands have different signs and the difference has the sign of `b`. -/
def Obligations.OverflowBySignBits : Prop :=
  ∀ a b : Word, (addOverflow a b = true ↔ a.msb = b.msb ∧ (a + b).msb ≠ a.msb) ∧
    (subOverflow a b = true ↔ a.msb ≠ b.msb ∧ (a - b).msb = b.msb)

/-- O31, R112, R114, R132. ADDU, SUBU and ADDIU write the result modulo 2^32 and never raise; the immediate counts as
signed. -/
def Obligations.UncheckedSumResult : Prop :=
  ∀ (s : State) (rd rs rt : Reg) (imm : Half),
    (∃ t v, exec (.addu rd rs rt) s = .next t ∧ t.pc = s.pc + 4#32 ∧ WritesX s t rd v ∧
      v.toNat = ((s.x rs).toNat + (s.x rt).toNat) % 2 ^ 32) ∧
    (∃ t v, exec (.subu rd rs rt) s = .next t ∧ t.pc = s.pc + 4#32 ∧ WritesX s t rd v ∧
      (v.toNat : Int) = ((s.x rs).toNat - (s.x rt).toNat : Int) % 2 ^ 32) ∧
    (∃ t v, exec (.addiu rt rs imm) s = .next t ∧ t.pc = s.pc + 4#32 ∧ WritesX s t rt v ∧
      (v.toNat : Int) = ((s.x rs).toNat + imm.toInt : Int) % 2 ^ 32)

/-- O32, R115, R116. MULT and MULTU leave the exact product, signed and unsigned, in Hi (the upper half) and Lo. -/
def Obligations.ProductResult : Prop :=
  ∀ (s : State) (rs rt : Reg),
    (∃ t h l, exec (.mult rs rt) s = .next t ∧ t.pc = s.pc + 4#32 ∧ WritesHiLo s t h l ∧
      h.toInt * 2 ^ 32 + l.toNat = (s.x rs).toInt * (s.x rt).toInt) ∧
    (∃ t h l, exec (.multu rs rt) s = .next t ∧ t.pc = s.pc + 4#32 ∧ WritesHiLo s t h l ∧
      h.toNat * 2 ^ 32 + l.toNat = (s.x rs).toNat * (s.x rt).toNat)

/-- O33, R117, R118. DIV with a divisor other than 0, but for -2^31 / -1, and DIVU with a divisor other than 0: the
dividend is quotient times divisor plus remainder, the remainder is smaller than the divisor and, for DIV, has the sign
of the dividend (the spec's decision D11, log 25). -/
def Obligations.QuotientResult : Prop :=
  ∀ (s : State) (rs rt : Reg),
    ((s.x rt).toInt ≠ 0 → ¬ ((s.x rs).toInt = -2 ^ 31 ∧ (s.x rt).toInt = -1) →
      ∃ t q r, exec (.div rs rt) s = .next t ∧ t.pc = s.pc + 4#32 ∧ WritesHiLo s t r q ∧
        (s.x rs).toInt = q.toInt * (s.x rt).toInt + r.toInt ∧ |r.toInt| < |(s.x rt).toInt| ∧
        0 ≤ r.toInt * (s.x rs).toInt) ∧
    ((s.x rt).toNat ≠ 0 →
      ∃ t q r, exec (.divu rs rt) s = .next t ∧ t.pc = s.pc + 4#32 ∧ WritesHiLo s t r q ∧
        (s.x rs).toNat = q.toNat * (s.x rt).toNat + r.toNat ∧ r.toNat < (s.x rt).toNat)

/-- O34, R117, R118; 93 U1, U2. A division by zero, and DIV of -2^31 by -1, complete without an exception and leave
everything but Hi and Lo as it was; what Hi and Lo become is not said. -/
def Obligations.OpenDivisionCompletes : Prop :=
  ∀ (s : State) (rs rt : Reg),
    (s.x rt = 0#32 → ∃ t, exec (.divu rs rt) s = .next t ∧ t.pc = s.pc + 4#32 ∧ LeavesHiLoOpen s t) ∧
    (s.x rt = 0#32 ∨ (s.x rs = 0x80000000#32 ∧ s.x rt = 0xFFFFFFFF#32) →
      ∃ t, exec (.div rs rt) s = .next t ∧ t.pc = s.pc + 4#32 ∧ LeavesHiLoOpen s t)

/-- O35, R119, R120, R133, R134. The four comparisons write 1 or 0; SLTIU's immediate is sign-extended and then compared
as unsigned. -/
def Obligations.ComparisonResult : Prop :=
  ∀ (s : State) (rd rs rt : Reg) (imm : Half),
    (∃ t, exec (.slt rd rs rt) s = .next t ∧ t.pc = s.pc + 4#32 ∧
      WritesX s t rd (if (s.x rs).toInt < (s.x rt).toInt then 1#32 else 0#32)) ∧
    (∃ t, exec (.sltu rd rs rt) s = .next t ∧ t.pc = s.pc + 4#32 ∧
      WritesX s t rd (if (s.x rs).toNat < (s.x rt).toNat then 1#32 else 0#32)) ∧
    (∃ t, exec (.slti rt rs imm) s = .next t ∧ t.pc = s.pc + 4#32 ∧
      WritesX s t rt (if (s.x rs).toInt < imm.toInt then 1#32 else 0#32)) ∧
    (∃ t, exec (.sltiu rt rs imm) s = .next t ∧ t.pc = s.pc + 4#32 ∧
      WritesX s t rt (if (s.x rs).toNat < (imm.signExtend 32).toNat then 1#32 else 0#32))

/-- O36, R121 to R124, R135 to R137. The logic instructions, bit by bit; an immediate has zeros in bits 31..16. -/
def Obligations.LogicResult : Prop :=
  ∀ (s : State) (rd rs rt : Reg) (imm : Half),
    (∃ t v, exec (.and rd rs rt) s = .next t ∧ t.pc = s.pc + 4#32 ∧ WritesX s t rd v ∧
      ∀ k, k < 32 → v.getLsbD k = ((s.x rs).getLsbD k && (s.x rt).getLsbD k)) ∧
    (∃ t v, exec (.or rd rs rt) s = .next t ∧ t.pc = s.pc + 4#32 ∧ WritesX s t rd v ∧
      ∀ k, k < 32 → v.getLsbD k = ((s.x rs).getLsbD k || (s.x rt).getLsbD k)) ∧
    (∃ t v, exec (.nor rd rs rt) s = .next t ∧ t.pc = s.pc + 4#32 ∧ WritesX s t rd v ∧
      ∀ k, k < 32 → v.getLsbD k = !((s.x rs).getLsbD k || (s.x rt).getLsbD k)) ∧
    (∃ t v, exec (.xor rd rs rt) s = .next t ∧ t.pc = s.pc + 4#32 ∧ WritesX s t rd v ∧
      ∀ k, k < 32 → v.getLsbD k = ((s.x rs).getLsbD k != (s.x rt).getLsbD k)) ∧
    (∃ t v, exec (.andi rt rs imm) s = .next t ∧ t.pc = s.pc + 4#32 ∧ WritesX s t rt v ∧
      ∀ k, k < 32 → v.getLsbD k = (decide (k < 16) && ((s.x rs).getLsbD k && imm.getLsbD k))) ∧
    (∃ t v, exec (.ori rt rs imm) s = .next t ∧ t.pc = s.pc + 4#32 ∧ WritesX s t rt v ∧
      ∀ k, k < 32 → v.getLsbD k = ((s.x rs).getLsbD k || (decide (k < 16) && imm.getLsbD k))) ∧
    (∃ t v, exec (.xori rt rs imm) s = .next t ∧ t.pc = s.pc + 4#32 ∧ WritesX s t rt v ∧
      ∀ k, k < 32 → v.getLsbD k = ((s.x rs).getLsbD k != (decide (k < 16) && imm.getLsbD k)))

-- Shifts.

/-- O37, R141, R143, R145. The immediate shifts by their arithmetic meaning: modulo 2^32; floor of the unsigned value;
floor of the signed value. -/
def Obligations.ImmediateShiftResult : Prop :=
  ∀ (s : State) (rd rt : Reg) (sa : BitVec 5),
    (∃ t v, exec (.sll rd rt sa) s = .next t ∧ t.pc = s.pc + 4#32 ∧ WritesX s t rd v ∧
      v.toNat = (s.x rt).toNat * 2 ^ sa.toNat % 2 ^ 32) ∧
    (∃ t v, exec (.srl rd rt sa) s = .next t ∧ t.pc = s.pc + 4#32 ∧ WritesX s t rd v ∧
      v.toNat = (s.x rt).toNat / 2 ^ sa.toNat) ∧
    (∃ t v, exec (.sra rd rt sa) s = .next t ∧ t.pc = s.pc + 4#32 ∧ WritesX s t rd v ∧
      v.toInt = Int.fdiv (s.x rt).toInt (2 ^ sa.toNat))

/-- O38, R140, R142, R144, R146. The variable shifts shift x[rt] by the low five bits of x[rs] (the spec's decision D10,
log 26); SRAV is arithmetic. -/
def Obligations.VariableShiftResult : Prop :=
  ∀ (s : State) (rd rt rs : Reg),
    (∃ t v, exec (.sllv rd rt rs) s = .next t ∧ t.pc = s.pc + 4#32 ∧ WritesX s t rd v ∧
      v.toNat = (s.x rt).toNat * 2 ^ ((s.x rs).toNat % 32) % 2 ^ 32) ∧
    (∃ t v, exec (.srlv rd rt rs) s = .next t ∧ t.pc = s.pc + 4#32 ∧ WritesX s t rd v ∧
      v.toNat = (s.x rt).toNat / 2 ^ ((s.x rs).toNat % 32)) ∧
    (∃ t v, exec (.srav rd rt rs) s = .next t ∧ t.pc = s.pc + 4#32 ∧ WritesX s t rd v ∧
      v.toInt = Int.fdiv (s.x rt).toInt (2 ^ ((s.x rs).toNat % 32)))

-- Loads, stores and LUI.

/-- O39, R151, R159. LW and LWC1 of an aligned legal address whose four bytes have values write the word they make up in
the platform's byte order. -/
def Obligations.LoadWordResult : Prop :=
  ∀ (s : State) (rt rs : Reg) (ft : FReg) (imm : Half) (b0 b1 b2 b3 : Byte),
    let ea := s.x rs + imm.signExtend 32
    ea.toNat % 4 = 0 → legalAddr s.platform s.mode ea 4 .load = true → MemoryHolds s ea.toNat [b0, b1, b2, b3] →
    (∃ t v, exec (.lw rt imm rs) s = .next t ∧ t.pc = s.pc + 4#32 ∧ WritesX s t rt v ∧
      v.toNat = bytesValue s.platform.byteOrder [b0, b1, b2, b3]) ∧
    (∃ t v, exec (.lwc1 ft imm rs) s = .next t ∧ t.pc = s.pc + 4#32 ∧ WritesF s t ft v ∧
      v.toNat = bytesValue s.platform.byteOrder [b0, b1, b2, b3])

/-- O40, R153 to R156. LBU and LHU zero-extend, LB and LH sign-extend, the byte or the halfword in the platform's byte
order. -/
def Obligations.NarrowLoadResult : Prop :=
  ∀ (s : State) (rt rs : Reg) (imm : Half) (b0 b1 : Byte),
    let ea := s.x rs + imm.signExtend 32
    (legalAddr s.platform s.mode ea 1 .load = true → MemoryHolds s ea.toNat [b0] →
      (∃ t v, exec (.lbu rt imm rs) s = .next t ∧ t.pc = s.pc + 4#32 ∧ WritesX s t rt v ∧ v.toNat = b0.toNat) ∧
      (∃ t v, exec (.lb rt imm rs) s = .next t ∧ t.pc = s.pc + 4#32 ∧ WritesX s t rt v ∧ v.toInt = b0.toInt)) ∧
    (ea.toNat % 2 = 0 → legalAddr s.platform s.mode ea 2 .load = true → MemoryHolds s ea.toNat [b0, b1] →
      (∃ t v, exec (.lhu rt imm rs) s = .next t ∧ t.pc = s.pc + 4#32 ∧ WritesX s t rt v ∧
        v.toNat = bytesValue s.platform.byteOrder [b0, b1]) ∧
      (∃ t v, exec (.lh rt imm rs) s = .next t ∧ t.pc = s.pc + 4#32 ∧ WritesX s t rt v ∧
        v.toInt = (BitVec.ofNat 16 (bytesValue s.platform.byteOrder [b0, b1])).toInt))

/-- O41, 20_memory.md R55, R66. Every load and every store of a misaligned address, or of one LegalAddr refuses for its
kind, raises IllegalAddress and does nothing else. That misalignment is illegal is the spec's decision D4
(log 23). -/
def Obligations.IllegalAccessRaises : Prop :=
  ∀ (i : Instr) (s : State) (base : Reg) (imm : Half) (n : Nat),
    let ea := s.x base + imm.signExtend 32
    (i.loadAccess = some (base, imm, n) → ea.toNat % n ≠ 0 ∨ legalAddr s.platform s.mode ea n .load = false →
      ∃ t, exec i s = .next t ∧ EntersException s t 4#32) ∧
    (i.storeAccess = some (base, imm, n) → ea.toNat % n ≠ 0 ∨ legalAddr s.platform s.mode ea n .store = false →
      ∃ t, exec i s = .next t ∧ EntersException s t 4#32)

/-- O42; 93 U3. A load of an aligned legal address, one byte of which has no value, stops with a fault, the model's
choice of the spec's two (log 10). -/
def Obligations.UnwrittenLoadFaults : Prop :=
  ∀ (i : Instr) (s : State) (base : Reg) (imm : Half) (n : Nat),
    let ea := s.x base + imm.signExtend 32
    i.loadAccess = some (base, imm, n) → ea.toNat % n = 0 → legalAddr s.platform s.mode ea n .load = true →
    (∃ k, k < n ∧ Memory.read? s.mem (ea.toNat + k) = none) → exec i s = .fault .unwrittenLoad

/-- O43, R152, R160. SW and SWC1 to an aligned legal address store the four bytes of the register there, in the
platform's byte order, and change nothing else. -/
def Obligations.StoreWordResult : Prop :=
  ∀ (s : State) (rt rs : Reg) (ft : FReg) (imm : Half),
    let ea := s.x rs + imm.signExtend 32
    ea.toNat % 4 = 0 → legalAddr s.platform s.mode ea 4 .store = true →
    (∃ t bs, exec (.sw rt imm rs) s = .next t ∧ t.pc = s.pc + 4#32 ∧ bs.length = 4 ∧
      bytesValue s.platform.byteOrder bs = (s.x rt).toNat ∧ WritesMemory s t ea.toNat bs) ∧
    (∃ t bs, exec (.swc1 ft imm rs) s = .next t ∧ t.pc = s.pc + 4#32 ∧ bs.length = 4 ∧
      bytesValue s.platform.byteOrder bs = (s.f ft).toNat ∧ WritesMemory s t ea.toNat bs)

/-- O44, R157, R158. SB stores the low byte and SH the low halfword of the register; the neighbouring bytes are
unchanged. -/
def Obligations.NarrowStoreResult : Prop :=
  ∀ (s : State) (rt rs : Reg) (imm : Half),
    let ea := s.x rs + imm.signExtend 32
    (legalAddr s.platform s.mode ea 1 .store = true →
      ∃ t b, exec (.sb rt imm rs) s = .next t ∧ t.pc = s.pc + 4#32 ∧ b.toNat = (s.x rt).toNat % 2 ^ 8 ∧
        WritesMemory s t ea.toNat [b]) ∧
    (ea.toNat % 2 = 0 → legalAddr s.platform s.mode ea 2 .store = true →
      ∃ t bs, exec (.sh rt imm rs) s = .next t ∧ t.pc = s.pc + 4#32 ∧ bs.length = 2 ∧
        bytesValue s.platform.byteOrder bs = (s.x rt).toNat % 2 ^ 16 ∧ WritesMemory s t ea.toNat bs)

/-- O45, R161. LUI: its word, with bits 25..21 fixed to 0; its result, the immediate in the upper half and zeros below. -/
def Obligations.LuiResult : Prop :=
  ∀ (s : State) (rt : Reg) (imm : Half),
    encode (.lui rt imm) = 0b001111#6 ++ 0b00000#5 ++ bits rt ++ imm ∧
    (∀ (rs : BitVec 5) (k : BitVec 21), (∃ i, decodeWord (0b001111#6 ++ rs ++ k) = .ok i) → rs = 0b00000#5) ∧
    ∃ t, exec (.lui rt imm) s = .next t ∧ t.pc = s.pc + 4#32 ∧ WritesX s t rt (imm ++ 0#16)

-- Branches and jumps.

/-- O46, R171, R172. BEQ and BNE: their words; they go to the address of the next instruction plus the immediate times 4
where the registers are equal, and not equal, else to the next instruction; nothing but `pc` changes. -/
def Obligations.BranchEqualResult : Prop :=
  ∀ (s : State) (rs rt : Reg) (imm : Half),
    encode (.beq rs rt imm) = 0b000100#6 ++ bits rs ++ bits rt ++ imm ∧
    encode (.bne rs rt imm) = 0b000101#6 ++ bits rs ++ bits rt ++ imm ∧
    (∃ t, exec (.beq rs rt imm) s = .next t ∧ OnlyPc s t ∧
      t.pc = if s.x rs = s.x rt then s.pc + 4#32 + BitVec.ofInt 32 (imm.toInt * 4) else s.pc + 4#32) ∧
    (∃ t, exec (.bne rs rt imm) s = .next t ∧ OnlyPc s t ∧
      t.pc = if s.x rs = s.x rt then s.pc + 4#32 else s.pc + 4#32 + BitVec.ofInt 32 (imm.toInt * 4))

/-- O47, R173, R174, R175. BLEZ, BGTZ and BLTZ: their words, with bits 20..16 fixed to 0; the comparison with zero is
signed; nothing but `pc` changes. -/
def Obligations.BranchZeroResult : Prop :=
  ∀ (s : State) (rs : Reg) (imm : Half),
    encode (.blez rs imm) = 0b000110#6 ++ bits rs ++ 0b00000#5 ++ imm ∧
    encode (.bgtz rs imm) = 0b000111#6 ++ bits rs ++ 0b00000#5 ++ imm ∧
    encode (.bltz rs imm) = 0b000001#6 ++ bits rs ++ 0b00000#5 ++ imm ∧
    (∀ (op : BitVec 6) (r f : BitVec 5) (k : Half), op = 0b000110#6 ∨ op = 0b000111#6 ∨ op = 0b000001#6 →
      (∃ i, decodeWord (op ++ r ++ f ++ k) = .ok i) → f = 0b00000#5) ∧
    (∃ t, exec (.blez rs imm) s = .next t ∧ OnlyPc s t ∧
      t.pc = if (s.x rs).toInt ≤ 0 then s.pc + 4#32 + BitVec.ofInt 32 (imm.toInt * 4) else s.pc + 4#32) ∧
    (∃ t, exec (.bgtz rs imm) s = .next t ∧ OnlyPc s t ∧
      t.pc = if (s.x rs).toInt > 0 then s.pc + 4#32 + BitVec.ofInt 32 (imm.toInt * 4) else s.pc + 4#32) ∧
    (∃ t, exec (.bltz rs imm) s = .next t ∧ OnlyPc s t ∧
      t.pc = if (s.x rs).toInt < 0 then s.pc + 4#32 + BitVec.ofInt 32 (imm.toInt * 4) else s.pc + 4#32)

/-- O48, R176, R177. J and JAL keep the top four bits of `pc` and put the target times 4 below them; JAL links the
address of the next instruction in x[31]. -/
def Obligations.JumpResult : Prop :=
  ∀ (s : State) (target : BitVec 26),
    (∃ t, exec (.j target) s = .next t ∧ OnlyPc s t ∧
      t.pc.toNat = s.pc.toNat / 2 ^ 28 * 2 ^ 28 + target.toNat * 4) ∧
    (∃ t, exec (.jal target) s = .next t ∧ WritesX s t 31 (s.pc + 4#32) ∧
      t.pc.toNat = s.pc.toNat / 2 ^ 28 * 2 ^ 28 + target.toNat * 4)

/-- O49, R178, R179. JR and JALR go to the old value of x[rs], unchecked; JALR links the address of the next instruction
in x[rd], also where rd is rs (the spec's decision D9, log 33). -/
def Obligations.JumpRegisterResult : Prop :=
  ∀ (s : State) (rd rs : Reg),
    (∃ t, exec (.jr rs) s = .next t ∧ OnlyPc s t ∧ t.pc = s.x rs) ∧
    (∃ t, exec (.jalr rd rs) s = .next t ∧ WritesX s t rd (s.pc + 4#32) ∧ t.pc = s.x rs)

-- Moves.

/-- O50, R191, R192. MFHI and MFLO copy Hi and Lo, which they leave unchanged. -/
def Obligations.MoveFromHiLoResult : Prop :=
  ∀ (s : State) (rd : Reg),
    (∃ t, exec (.mfhi rd) s = .next t ∧ t.pc = s.pc + 4#32 ∧ WritesX s t rd s.hi) ∧
    (∃ t, exec (.mflo rd) s = .next t ∧ t.pc = s.pc + 4#32 ∧ WritesX s t rd s.lo)

/-- O51, R193, R194, 10_state.md R34 to R36, R38. In kernel mode MFC0 and MTC0 of register 12, 13 or 14 copy all 32
bits; writing Status changes nothing else, the mode among it. -/
def Obligations.Cop0MoveResult : Prop :=
  ∀ (s : State) (rt : Reg) (cd : CReg), s.mode = .kernel → cd = 12 ∨ cd = 13 ∨ cd = 14 →
    (∃ t, exec (.mfc0 rt cd) s = .next t ∧ t.pc = s.pc + 4#32 ∧
      WritesX s t rt (if cd = 12 then s.status else if cd = 13 then s.cause else s.epc)) ∧
    (∃ t, exec (.mtc0 cd rt) s = .next t ∧ t.pc = s.pc + 4#32 ∧ WritesCop0 s t cd (s.x rt))

/-- O52, R195; 93 U7, U8. MFC0 and MTC0 of any other register, and of the three in user mode, are refused. Which of the
two names the refusal has where both hold is the model's choice (log 20). -/
def Obligations.Cop0MoveRefused : Prop :=
  ∀ (s : State) (rt : Reg) (cd : CReg),
    (¬ (cd = 12 ∨ cd = 13 ∨ cd = 14) →
      exec (.mfc0 rt cd) s = .refused .cop0Register ∧ exec (.mtc0 cd rt) s = .refused .cop0Register) ∧
    (cd = 12 ∨ cd = 13 ∨ cd = 14 → s.mode = .user →
      exec (.mfc0 rt cd) s = .refused .cop0UserMode ∧ exec (.mtc0 cd rt) s = .refused .cop0UserMode)

-- Floating point.

/-- O53, R203, R205, R207, R209, R201. Where FpArith of f[fs] and f[ft], in this order, is a value, the single-precision
operation writes it to f[fd] and nothing else; any of the 32 registers may be named. -/
def Obligations.SingleArithmeticResult : Prop :=
  ∀ (s : State) (fd fs ft : FReg) (r : Word),
    (fpArith 32 singleFormat .add (s.f fs) (s.f ft) = .ok r →
      ∃ t, exec (.addS fd fs ft) s = .next t ∧ t.pc = s.pc + 4#32 ∧ WritesF s t fd r) ∧
    (fpArith 32 singleFormat .sub (s.f fs) (s.f ft) = .ok r →
      ∃ t, exec (.subS fd fs ft) s = .next t ∧ t.pc = s.pc + 4#32 ∧ WritesF s t fd r) ∧
    (fpArith 32 singleFormat .mul (s.f fs) (s.f ft) = .ok r →
      ∃ t, exec (.mulS fd fs ft) s = .next t ∧ t.pc = s.pc + 4#32 ∧ WritesF s t fd r) ∧
    (fpArith 32 singleFormat .div (s.f fs) (s.f ft) = .ok r →
      ∃ t, exec (.divS fd fs ft) s = .next t ∧ t.pc = s.pc + 4#32 ∧ WritesF s t fd r)

/-- O54, R204, R206, R208, R210, R214. Where the three numbers are even and FpArith of the two pairs is a value, the
double-precision operation writes its halves to f[fd] and f[fd+1] and nothing else. A pair's value, and which half goes
where, follow FP_PAIR_ORDER. -/
def Obligations.DoubleArithmeticResult : Prop :=
  ∀ (s : State) (fd fs ft : FReg) (r : Double), fd.val % 2 = 0 → fs.val % 2 = 0 → ft.val % 2 = 0 →
    let value : FReg → Double := fun n =>
      match s.platform.pairOrder with
      | .firstHigh => s.f n ++ s.f (n + 1)
      | .firstLow  => s.f (n + 1) ++ s.f n
    let writes : State → Prop := fun t =>
      ∃ h l : Word, r = h ++ l ∧
        match s.platform.pairOrder with
        | .firstHigh => WritesTwoF s t fd h l
        | .firstLow  => WritesTwoF s t fd l h
    (fpArith 64 doubleFormat .add (value fs) (value ft) = .ok r →
      ∃ t, exec (.addD fd fs ft) s = .next t ∧ t.pc = s.pc + 4#32 ∧ writes t) ∧
    (fpArith 64 doubleFormat .sub (value fs) (value ft) = .ok r →
      ∃ t, exec (.subD fd fs ft) s = .next t ∧ t.pc = s.pc + 4#32 ∧ writes t) ∧
    (fpArith 64 doubleFormat .mul (value fs) (value ft) = .ok r →
      ∃ t, exec (.mulD fd fs ft) s = .next t ∧ t.pc = s.pc + 4#32 ∧ writes t) ∧
    (fpArith 64 doubleFormat .div (value fs) (value ft) = .ok r →
      ∃ t, exec (.divD fd fs ft) s = .next t ∧ t.pc = s.pc + 4#32 ∧ writes t)

/-- O55, R215, 60_exceptions.md R240. Each arithmetic instruction, double-precision ones on even numbers, enters the
FloatingPoint exception exactly where FpArith is Trap: it answers a next state, and that state is the entry then and has
the exception registers unchanged otherwise. -/
def Obligations.FloatTrapsWhereFpArithTraps : Prop :=
  ∀ (s : State) (op : FpOp) (fd fs ft : FReg),
    let single : Instr :=
      match op with
      | .add => .addS fd fs ft
      | .sub => .subS fd fs ft
      | .mul => .mulS fd fs ft
      | .div => .divS fd fs ft
    let double : Instr :=
      match op with
      | .add => .addD fd fs ft
      | .sub => .subD fd fs ft
      | .mul => .mulD fd fs ft
      | .div => .divD fd fs ft
    (∃ t, exec single s = .next t ∧
      if fpArith 32 singleFormat op (s.f fs) (s.f ft) = .trap then EntersException s t 15#32
      else t.pc = s.pc + 4#32 ∧ t.mode = s.mode ∧ KeepsCop0 s t) ∧
    (fd.val % 2 = 0 → fs.val % 2 = 0 → ft.val % 2 = 0 →
      ∃ t, exec double s = .next t ∧
        if fpArith 64 doubleFormat op (s.pair fs) (s.pair ft) = .trap then EntersException s t 15#32
        else t.pc = s.pc + 4#32 ∧ t.mode = s.mode ∧ KeepsCop0 s t)

/-- O56, R213; 93 U6. A double-precision instruction that names an odd register is refused, in every state. -/
def Obligations.OddDoubleRefused : Prop :=
  ∀ (s : State) (fd fs ft : FReg),
    (fd.val % 2 = 1 ∨ fs.val % 2 = 1 ∨ ft.val % 2 = 1 →
      exec (.addD fd fs ft) s = .refused .oddDoubleRegister ∧ exec (.subD fd fs ft) s = .refused .oddDoubleRegister ∧
        exec (.mulD fd fs ft) s = .refused .oddDoubleRegister ∧
        exec (.divD fd fs ft) s = .refused .oddDoubleRegister) ∧
    (fd.val % 2 = 1 ∨ fs.val % 2 = 1 → exec (.movD fd fs) s = .refused .oddDoubleRegister)

/-- O57, R211. MOV.S: its word, with bits 20..16 fixed to 0; it copies the 32 bits, changes nothing else and raises
nothing. -/
def Obligations.MovSResult : Prop :=
  ∀ (s : State) (fd fs : FReg),
    encode (.movS fd fs) = 0b010001#6 ++ 0b00000#5 ++ 0b00000#5 ++ bits fs ++ bits fd ++ 0b000110#6 ∧
    (∀ (k : BitVec 5) (m : BitVec 10),
      (∃ i, decodeWord (0b010001#6 ++ 0b00000#5 ++ k ++ m ++ 0b000110#6) = .ok i) → k = 0b00000#5) ∧
    ∃ t, exec (.movS fd fs) s = .next t ∧ t.pc = s.pc + 4#32 ∧ WritesF s t fd (s.f fs)

/-- O58, R212. MOV.D of even numbers copies each register to the one in the same position, both read before either is
written, in either pair order. -/
def Obligations.MovDResult : Prop :=
  ∀ (s : State) (fd fs : FReg), fd.val % 2 = 0 → fs.val % 2 = 0 →
    ∃ t, exec (.movD fd fs) s = .next t ∧ t.pc = s.pc + 4#32 ∧ WritesTwoF s t fd (s.f fs) (s.f (fs + 1))

-- System call and return.

/-- O59, R220, R232. SYSCALL enters the exception with code 8, in either mode, and does nothing else. -/
def Obligations.SyscallEntersException : Prop := ∀ s : State, ∃ t, exec .syscall s = .next t ∧ EntersException s t 8#32

/-- O60, 60_exceptions.md R246. After SYSCALL the sequence MFC0 R_k, C14; ADDIU R_k, R_k, 4; JR R_k goes to the
instruction after the SYSCALL, in kernel mode, every general register but R_k as it was. -/
def Obligations.SoftwareReturnFromSyscall : Prop :=
  ∀ (s : State) (k : Reg), k ≠ 0 →
    ∃ t1 t2 t3 t4, exec .syscall s = .next t1 ∧ exec (.mfc0 k 14) t1 = .next t2 ∧
      exec (.addiu k k 4#16) t2 = .next t3 ∧ exec (.jr k) t3 = .next t4 ∧ t4.pc = s.pc + 4#32 ∧ t4.mode = .kernel ∧
      (∀ r, r ≠ k → t4.x r = s.x r) ∧ KeepsF s t4 ∧ KeepsHiLo s t4 ∧ KeepsMemory s t4
end

