-- ==== Sys2Proof/Laws/Bytes.lean ====
section
/-! SUPPORT. Laws of field placement and of the byte order (20_memory.md R52): a field put at a place is read back from
it, and splitting a word into bytes and joining them again are inverse in either byte order. -/

namespace Sys2Proof.Machine

theorem getLsbD_putAt {k : Nat} (w lo : Nat) (v : BitVec k) (i : Nat) :
    (putAt w lo v).getLsbD i = (decide (i < w) && (decide (lo ≤ i) && v.getLsbD (i - lo))) := by
  by_cases hw : i < w <;> by_cases hl : lo ≤ i <;>
    simp [putAt, hw, hl, show i < lo ↔ ¬ lo ≤ i by omega]

/-- A field is read back from its place. -/
@[simp] theorem extractLsb'_putAt_same {k : Nat} (w lo : Nat) (v : BitVec k) (h : lo + k ≤ w) :
    (putAt w lo v).extractLsb' lo k = v := by
  apply BitVec.eq_of_getLsbD_eq
  intro i hi
  simp only [BitVec.getLsbD_extractLsb', getLsbD_putAt, hi]
  simp [show lo + i < w by omega]

/-- A field is zero outside its place. -/
theorem extractLsb'_putAt_disjoint {k : Nat} (w lo lo' n : Nat) (v : BitVec k) (h : lo' + k ≤ lo ∨ lo + n ≤ lo') :
    (putAt w lo' v).extractLsb' lo n = 0#n := by
  apply BitVec.eq_of_getLsbD_eq
  intro i hi
  simp only [BitVec.getLsbD_extractLsb', getLsbD_putAt, BitVec.getLsbD_zero, hi]
  rcases h with h | h
  · simp [BitVec.getLsbD_of_ge v (lo + i - lo') (by omega)]
  · simp [show ¬ lo' ≤ lo + i by omega]

/-- A part of a field is read back from its place. -/
theorem extractLsb'_putAt_within {k : Nat} (w lo lo' n : Nat) (v : BitVec k) (h : lo' ≤ lo) (h' : lo + n ≤ w) :
    (putAt w lo' v).extractLsb' lo n = v.extractLsb' (lo - lo') n := by
  apply BitVec.eq_of_getLsbD_eq
  intro i hi
  simp only [BitVec.getLsbD_extractLsb', getLsbD_putAt, hi]
  simp [show lo + i < w by omega, show lo' ≤ lo + i by omega, show lo + i - lo' = lo - lo' + i by omega]

theorem extractLsb'_or {w : Nat} (lo n : Nat) (x y : BitVec w) :
    (x ||| y).extractLsb' lo n = x.extractLsb' lo n ||| y.extractLsb' lo n := by
  apply BitVec.eq_of_getLsbD_eq
  intro i hi
  simp [hi]

/-- Splitting a joined word gives back its bytes, in either byte order. -/
@[simp] theorem splitWord_joinWord (o : ByteOrder) (b0 b1 b2 b3 : Byte) :
    splitWord o (joinWord o b0 b1 b2 b3) = [b0, b1, b2, b3] := by
  cases o <;> simp [splitWord, joinWord, extractLsb'_or, extractLsb'_putAt_disjoint]

/-- Splitting a joined halfword gives back its bytes, in either byte order. -/
@[simp] theorem splitHalf_joinHalf (o : ByteOrder) (b0 b1 : Byte) : splitHalf o (joinHalf o b0 b1) = [b0, b1] := by
  cases o <;> simp [splitHalf, joinHalf, extractLsb'_or, extractLsb'_putAt_disjoint]

theorem word_eq_of_bytes {x y : Word} (h0 : x.extractLsb' 0 8 = y.extractLsb' 0 8)
    (h1 : x.extractLsb' 8 8 = y.extractLsb' 8 8) (h2 : x.extractLsb' 16 8 = y.extractLsb' 16 8)
    (h3 : x.extractLsb' 24 8 = y.extractLsb' 24 8) : x = y := by
  apply BitVec.eq_of_getLsbD_eq
  intro i hi
  have key : ∀ lo, x.extractLsb' lo 8 = y.extractLsb' lo 8 → lo ≤ i → i < lo + 8 → x.getLsbD i = y.getLsbD i := by
    intro lo h hle hlt
    have := congrArg (fun b => b.getLsbD (i - lo)) h
    simpa [show i - lo < 8 by omega, show lo + (i - lo) = i by omega] using this
  by_cases a : i < 8
  · exact key 0 h0 (by omega) (by omega)
  by_cases b : i < 16
  · exact key 8 h1 (by omega) (by omega)
  by_cases c : i < 24
  · exact key 16 h2 (by omega) (by omega)
  · exact key 24 h3 (by omega) (by omega)

theorem half_eq_of_bytes {x y : Half} (h0 : x.extractLsb' 0 8 = y.extractLsb' 0 8)
    (h1 : x.extractLsb' 8 8 = y.extractLsb' 8 8) : x = y := by
  apply BitVec.eq_of_getLsbD_eq
  intro i hi
  have key : ∀ lo, x.extractLsb' lo 8 = y.extractLsb' lo 8 → lo ≤ i → i < lo + 8 → x.getLsbD i = y.getLsbD i := by
    intro lo h hle hlt
    have := congrArg (fun b => b.getLsbD (i - lo)) h
    simpa [show i - lo < 8 by omega, show lo + (i - lo) = i by omega] using this
  by_cases a : i < 8
  · exact key 0 h0 (by omega) (by omega)
  · exact key 8 h1 (by omega) (by omega)

/-- A word is its bytes joined: if its bytes in order `o` are these four, it is their join. -/
theorem joinWord_of_splitWord {o : ByteOrder} {v : Word} {b0 b1 b2 b3 : Byte}
    (h : splitWord o v = [b0, b1, b2, b3]) : joinWord o b0 b1 b2 b3 = v := by
  have e := (splitWord_joinWord o b0 b1 b2 b3).trans h.symm
  cases o <;> simp only [splitWord, List.cons.injEq, and_true] at e <;> obtain ⟨a, b, c, d⟩ := e <;>
    exact word_eq_of_bytes (by assumption) (by assumption) (by assumption) (by assumption)

/-- A halfword is its bytes joined. -/
theorem joinHalf_of_splitHalf {o : ByteOrder} {v : Half} {b0 b1 : Byte}
    (h : splitHalf o v = [b0, b1]) : joinHalf o b0 b1 = v := by
  have e := (splitHalf_joinHalf o b0 b1).trans h.symm
  cases o <;> simp only [splitHalf, List.cons.injEq, and_true] at e <;> obtain ⟨a, b⟩ := e <;>
    exact half_eq_of_bytes (by assumption) (by assumption)

theorem exists_splitWord (o : ByteOrder) (v : Word) :
    ∃ b0 b1 b2 b3, splitWord o v = [b0, b1, b2, b3] ∧ joinWord o b0 b1 b2 b3 = v := by
  cases o <;> exact ⟨_, _, _, _, rfl, joinWord_of_splitWord rfl⟩

theorem exists_splitHalf (o : ByteOrder) (v : Half) :
    ∃ b0 b1, splitHalf o v = [b0, b1] ∧ joinHalf o b0 b1 = v := by
  cases o <;> exact ⟨_, _, rfl, joinHalf_of_splitHalf rfl⟩

@[simp] theorem splitWord_length (o : ByteOrder) (v : Word) : (splitWord o v).length = 4 := by cases o <;> rfl

@[simp] theorem splitHalf_length (o : ByteOrder) (v : Half) : (splitHalf o v).length = 2 := by cases o <;> rfl

end Sys2Proof.Machine
end

