-- ==== Sys2Proof/Laws/Encoding.lean ====
section
/-! SUPPORT. Laws of the encoding: each field of a layout is read back from its place (30_encoding.md R81 to R85), and a
word is determined by its fields. -/

namespace Sys2Proof

open Machine

@[simp] theorem toFin_bits (r : Fin 32) : (bits r).toFin = r := rfl

-- The fields of rType.

@[simp] theorem opField_rType (rs rt rd sa : BitVec 5) (funct : BitVec 6) : opField (rType rs rt rd sa funct) = 0b000000#6 := by
  simp [opField, rType, extractLsb'_or, extractLsb'_putAt_disjoint]

@[simp] theorem rsField_rType (rs rt rd sa : BitVec 5) (funct : BitVec 6) : rsField (rType rs rt rd sa funct) = rs := by
  simp [rsField, rType, extractLsb'_or, extractLsb'_putAt_disjoint]

@[simp] theorem rtField_rType (rs rt rd sa : BitVec 5) (funct : BitVec 6) : rtField (rType rs rt rd sa funct) = rt := by
  simp [rtField, rType, extractLsb'_or, extractLsb'_putAt_disjoint]

@[simp] theorem rdField_rType (rs rt rd sa : BitVec 5) (funct : BitVec 6) : rdField (rType rs rt rd sa funct) = rd := by
  simp [rdField, rType, extractLsb'_or, extractLsb'_putAt_disjoint]

@[simp] theorem saField_rType (rs rt rd sa : BitVec 5) (funct : BitVec 6) : saField (rType rs rt rd sa funct) = sa := by
  simp [saField, rType, extractLsb'_or, extractLsb'_putAt_disjoint]

@[simp] theorem functField_rType (rs rt rd sa : BitVec 5) (funct : BitVec 6) : functField (rType rs rt rd sa funct) = funct := by
  simp [functField, rType, extractLsb'_or, extractLsb'_putAt_disjoint]

-- The fields of iType.

@[simp] theorem opField_iType (op : BitVec 6) (rs rt : BitVec 5) (imm : Half) : opField (iType op rs rt imm) = op := by
  simp [opField, iType, extractLsb'_or, extractLsb'_putAt_disjoint]

@[simp] theorem rsField_iType (op : BitVec 6) (rs rt : BitVec 5) (imm : Half) : rsField (iType op rs rt imm) = rs := by
  simp [rsField, iType, extractLsb'_or, extractLsb'_putAt_disjoint]

@[simp] theorem rtField_iType (op : BitVec 6) (rs rt : BitVec 5) (imm : Half) : rtField (iType op rs rt imm) = rt := by
  simp [rtField, iType, extractLsb'_or, extractLsb'_putAt_disjoint]

@[simp] theorem immOf_iType (op : BitVec 6) (rs rt : BitVec 5) (imm : Half) : immOf (iType op rs rt imm) = imm := by
  simp [immOf, iType, extractLsb'_or, extractLsb'_putAt_disjoint]

-- The fields of jType.

@[simp] theorem opField_jType (op : BitVec 6) (target : BitVec 26) : opField (jType op target) = op := by
  simp [opField, jType, extractLsb'_or, extractLsb'_putAt_disjoint]

@[simp] theorem targetOf_jType (op : BitVec 6) (target : BitVec 26) : targetOf (jType op target) = target := by
  simp [targetOf, jType, extractLsb'_or, extractLsb'_putAt_disjoint]

-- The fields of cop0Type.

@[simp] theorem opField_cop0Type (selector rt cd : BitVec 5) : opField (cop0Type selector rt cd) = 0b010000#6 := by
  simp [opField, cop0Type, extractLsb'_or, extractLsb'_putAt_disjoint]

@[simp] theorem rsField_cop0Type (selector rt cd : BitVec 5) : rsField (cop0Type selector rt cd) = selector := by
  simp [rsField, cop0Type, extractLsb'_or, extractLsb'_putAt_disjoint]

@[simp] theorem rtField_cop0Type (selector rt cd : BitVec 5) : rtField (cop0Type selector rt cd) = rt := by
  simp [rtField, cop0Type, extractLsb'_or, extractLsb'_putAt_disjoint]

@[simp] theorem rdField_cop0Type (selector rt cd : BitVec 5) : rdField (cop0Type selector rt cd) = cd := by
  simp [rdField, cop0Type, extractLsb'_or, extractLsb'_putAt_disjoint]

@[simp] theorem saField_cop0Type (selector rt cd : BitVec 5) : saField (cop0Type selector rt cd) = 0#5 := by
  simp [saField, cop0Type, extractLsb'_or, extractLsb'_putAt_disjoint]

@[simp] theorem functField_cop0Type (selector rt cd : BitVec 5) : functField (cop0Type selector rt cd) = 0#6 := by
  simp [functField, cop0Type, extractLsb'_or, extractLsb'_putAt_disjoint]

-- The fields of fpType.

@[simp] theorem opField_fpType (fmt ft fs fd : BitVec 5) (funct : BitVec 6) : opField (fpType fmt ft fs fd funct) = 0b010001#6 := by
  simp [opField, fpType, extractLsb'_or, extractLsb'_putAt_disjoint]

@[simp] theorem rsField_fpType (fmt ft fs fd : BitVec 5) (funct : BitVec 6) : rsField (fpType fmt ft fs fd funct) = fmt := by
  simp [rsField, fpType, extractLsb'_or, extractLsb'_putAt_disjoint]

@[simp] theorem rtField_fpType (fmt ft fs fd : BitVec 5) (funct : BitVec 6) : rtField (fpType fmt ft fs fd funct) = ft := by
  simp [rtField, fpType, extractLsb'_or, extractLsb'_putAt_disjoint]

@[simp] theorem rdField_fpType (fmt ft fs fd : BitVec 5) (funct : BitVec 6) : rdField (fpType fmt ft fs fd funct) = fs := by
  simp [rdField, fpType, extractLsb'_or, extractLsb'_putAt_disjoint]

@[simp] theorem saField_fpType (fmt ft fs fd : BitVec 5) (funct : BitVec 6) : saField (fpType fmt ft fs fd funct) = fd := by
  simp [saField, fpType, extractLsb'_or, extractLsb'_putAt_disjoint]

@[simp] theorem functField_fpType (fmt ft fs fd : BitVec 5) (funct : BitVec 6) : functField (fpType fmt ft fs fd funct) = funct := by
  simp [functField, fpType, extractLsb'_or, extractLsb'_putAt_disjoint]

/-- Two words with the same fields are the same word. -/
theorem word_eq_of_fields {x y : Word} (h1 : opField x = opField y) (h2 : rsField x = rsField y)
    (h3 : rtField x = rtField y) (h4 : rdField x = rdField y) (h5 : saField x = saField y)
    (h6 : functField x = functField y) : x = y := by
  apply BitVec.eq_of_getLsbD_eq
  intro i hi
  have key : ∀ lo n, x.extractLsb' lo n = y.extractLsb' lo n → lo ≤ i → i < lo + n → x.getLsbD i = y.getLsbD i := by
    intro lo n h hle hlt
    have := congrArg (fun b => b.getLsbD (i - lo)) h
    simpa [show i - lo < n by omega, show lo + (i - lo) = i by omega] using this
  by_cases a : i < 6
  · exact key 0 6 h6 (by omega) (by omega)
  by_cases b : i < 11
  · exact key 6 5 h5 (by omega) (by omega)
  by_cases c : i < 16
  · exact key 11 5 h4 (by omega) (by omega)
  by_cases d : i < 21
  · exact key 16 5 h3 (by omega) (by omega)
  by_cases e : i < 26
  · exact key 21 5 h2 (by omega) (by omega)
  · exact key 26 6 h1 (by omega) (by omega)

/-- A word, mask and match agree as soon as they agree field by field. -/
theorem and_eq_of_fields {w m p : Word} (h1 : opField w &&& opField m = opField p)
    (h2 : rsField w &&& rsField m = rsField p) (h3 : rtField w &&& rtField m = rtField p)
    (h4 : rdField w &&& rdField m = rdField p) (h5 : saField w &&& saField m = saField p)
    (h6 : functField w &&& functField m = functField p) : w &&& m = p := by
  apply word_eq_of_fields <;>
    simp only [opField, rsField, rtField, rdField, saField, functField, BitVec.extractLsb'_and] at * <;> assumption

/-- Field by field, what it is for a word to match a row. -/
theorem fields_of_and_eq {w m p : Word} (h : w &&& m = p) :
    opField w &&& opField m = opField p ∧ rsField w &&& rsField m = rsField p ∧
      rtField w &&& rtField m = rtField p ∧ rdField w &&& rdField m = rdField p ∧
      saField w &&& saField m = saField p ∧ functField w &&& functField m = functField p := by
  subst h
  simp only [opField, rsField, rtField, rdField, saField, functField, BitVec.extractLsb'_and, and_self]

-- The low fields of an I-type word are the parts of its immediate; those of a jump, of its target.

@[simp] theorem rdField_iType (op : BitVec 6) (rs rt : BitVec 5) (imm : Half) :
    rdField (iType op rs rt imm) = imm.extractLsb' 11 5 := by
  simp [rdField, iType, extractLsb'_or, extractLsb'_putAt_disjoint, extractLsb'_putAt_within]

@[simp] theorem saField_iType (op : BitVec 6) (rs rt : BitVec 5) (imm : Half) :
    saField (iType op rs rt imm) = imm.extractLsb' 6 5 := by
  simp [saField, iType, extractLsb'_or, extractLsb'_putAt_disjoint, extractLsb'_putAt_within]

@[simp] theorem functField_iType (op : BitVec 6) (rs rt : BitVec 5) (imm : Half) :
    functField (iType op rs rt imm) = imm.extractLsb' 0 6 := by
  simp [functField, iType, extractLsb'_or, extractLsb'_putAt_disjoint, extractLsb'_putAt_within]

@[simp] theorem rsField_jType (op : BitVec 6) (target : BitVec 26) :
    rsField (jType op target) = target.extractLsb' 21 5 := by
  simp [rsField, jType, extractLsb'_or, extractLsb'_putAt_disjoint, extractLsb'_putAt_within]

@[simp] theorem rtField_jType (op : BitVec 6) (target : BitVec 26) :
    rtField (jType op target) = target.extractLsb' 16 5 := by
  simp [rtField, jType, extractLsb'_or, extractLsb'_putAt_disjoint, extractLsb'_putAt_within]

@[simp] theorem rdField_jType (op : BitVec 6) (target : BitVec 26) :
    rdField (jType op target) = target.extractLsb' 11 5 := by
  simp [rdField, jType, extractLsb'_or, extractLsb'_putAt_disjoint, extractLsb'_putAt_within]

@[simp] theorem saField_jType (op : BitVec 6) (target : BitVec 26) :
    saField (jType op target) = target.extractLsb' 6 5 := by
  simp [saField, jType, extractLsb'_or, extractLsb'_putAt_disjoint, extractLsb'_putAt_within]

@[simp] theorem functField_jType (op : BitVec 6) (target : BitVec 26) :
    functField (jType op target) = target.extractLsb' 0 6 := by
  simp [functField, jType, extractLsb'_or, extractLsb'_putAt_disjoint, extractLsb'_putAt_within]

end Sys2Proof
end

