-- ==== Sys2Proof/Laws/Exec.lean ====
section
/-! SUPPORT. `exec` of each constructor is its meaning: these lemmas stand for the equations of `exec`, so that no proof
unfolds its 62 arms. -/

namespace Sys2Proof.Machine

@[simp] theorem exec_add (rd rs rt : Reg) (s : State) : exec (.add rd rs rt) s = execAdd rd rs rt s := rfl

@[simp] theorem exec_addu (rd rs rt : Reg) (s : State) : exec (.addu rd rs rt) s = execAddu rd rs rt s := rfl

@[simp] theorem exec_sub (rd rs rt : Reg) (s : State) : exec (.sub rd rs rt) s = execSub rd rs rt s := rfl

@[simp] theorem exec_subu (rd rs rt : Reg) (s : State) : exec (.subu rd rs rt) s = execSubu rd rs rt s := rfl

@[simp] theorem exec_mult (rs rt : Reg) (s : State) : exec (.mult rs rt) s = execMult rs rt s := rfl

@[simp] theorem exec_multu (rs rt : Reg) (s : State) : exec (.multu rs rt) s = execMultu rs rt s := rfl

@[simp] theorem exec_div (rs rt : Reg) (s : State) : exec (.div rs rt) s = execDiv rs rt s := rfl

@[simp] theorem exec_divu (rs rt : Reg) (s : State) : exec (.divu rs rt) s = execDivu rs rt s := rfl

@[simp] theorem exec_slt (rd rs rt : Reg) (s : State) : exec (.slt rd rs rt) s = execSlt rd rs rt s := rfl

@[simp] theorem exec_sltu (rd rs rt : Reg) (s : State) : exec (.sltu rd rs rt) s = execSltu rd rs rt s := rfl

@[simp] theorem exec_and (rd rs rt : Reg) (s : State) : exec (.and rd rs rt) s = execAnd rd rs rt s := rfl

@[simp] theorem exec_or (rd rs rt : Reg) (s : State) : exec (.or rd rs rt) s = execOr rd rs rt s := rfl

@[simp] theorem exec_nor (rd rs rt : Reg) (s : State) : exec (.nor rd rs rt) s = execNor rd rs rt s := rfl

@[simp] theorem exec_xor (rd rs rt : Reg) (s : State) : exec (.xor rd rs rt) s = execXor rd rs rt s := rfl

@[simp] theorem exec_addi (rt rs : Reg) (imm : Half) (s : State) : exec (.addi rt rs imm) s = execAddi rt rs imm s := rfl

@[simp] theorem exec_addiu (rt rs : Reg) (imm : Half) (s : State) : exec (.addiu rt rs imm) s = execAddiu rt rs imm s := rfl

@[simp] theorem exec_slti (rt rs : Reg) (imm : Half) (s : State) : exec (.slti rt rs imm) s = execSlti rt rs imm s := rfl

@[simp] theorem exec_sltiu (rt rs : Reg) (imm : Half) (s : State) : exec (.sltiu rt rs imm) s = execSltiu rt rs imm s := rfl

@[simp] theorem exec_andi (rt rs : Reg) (imm : Half) (s : State) : exec (.andi rt rs imm) s = execAndi rt rs imm s := rfl

@[simp] theorem exec_ori (rt rs : Reg) (imm : Half) (s : State) : exec (.ori rt rs imm) s = execOri rt rs imm s := rfl

@[simp] theorem exec_xori (rt rs : Reg) (imm : Half) (s : State) : exec (.xori rt rs imm) s = execXori rt rs imm s := rfl

@[simp] theorem exec_sll (rd rt : Reg) (sa : BitVec 5) (s : State) : exec (.sll rd rt sa) s = execSll rd rt sa s := rfl

@[simp] theorem exec_sllv (rd rt rs : Reg) (s : State) : exec (.sllv rd rt rs) s = execSllv rd rt rs s := rfl

@[simp] theorem exec_srl (rd rt : Reg) (sa : BitVec 5) (s : State) : exec (.srl rd rt sa) s = execSrl rd rt sa s := rfl

@[simp] theorem exec_srlv (rd rt rs : Reg) (s : State) : exec (.srlv rd rt rs) s = execSrlv rd rt rs s := rfl

@[simp] theorem exec_sra (rd rt : Reg) (sa : BitVec 5) (s : State) : exec (.sra rd rt sa) s = execSra rd rt sa s := rfl

@[simp] theorem exec_srav (rd rt rs : Reg) (s : State) : exec (.srav rd rt rs) s = execSrav rd rt rs s := rfl

@[simp] theorem exec_lw (rt : Reg) (imm : Half) (rs : Reg) (s : State) : exec (.lw rt imm rs) s = execLw rt imm rs s := rfl

@[simp] theorem exec_sw (rt : Reg) (imm : Half) (rs : Reg) (s : State) : exec (.sw rt imm rs) s = execSw rt imm rs s := rfl

@[simp] theorem exec_lbu (rt : Reg) (imm : Half) (rs : Reg) (s : State) : exec (.lbu rt imm rs) s = execLbu rt imm rs s := rfl

@[simp] theorem exec_lb (rt : Reg) (imm : Half) (rs : Reg) (s : State) : exec (.lb rt imm rs) s = execLb rt imm rs s := rfl

@[simp] theorem exec_lhu (rt : Reg) (imm : Half) (rs : Reg) (s : State) : exec (.lhu rt imm rs) s = execLhu rt imm rs s := rfl

@[simp] theorem exec_lh (rt : Reg) (imm : Half) (rs : Reg) (s : State) : exec (.lh rt imm rs) s = execLh rt imm rs s := rfl

@[simp] theorem exec_sb (rt : Reg) (imm : Half) (rs : Reg) (s : State) : exec (.sb rt imm rs) s = execSb rt imm rs s := rfl

@[simp] theorem exec_sh (rt : Reg) (imm : Half) (rs : Reg) (s : State) : exec (.sh rt imm rs) s = execSh rt imm rs s := rfl

@[simp] theorem exec_lwc1 (ft : FReg) (imm : Half) (rs : Reg) (s : State) : exec (.lwc1 ft imm rs) s = execLwc1 ft imm rs s := rfl

@[simp] theorem exec_swc1 (ft : FReg) (imm : Half) (rs : Reg) (s : State) : exec (.swc1 ft imm rs) s = execSwc1 ft imm rs s := rfl

@[simp] theorem exec_lui (rt : Reg) (imm : Half) (s : State) : exec (.lui rt imm) s = execLui rt imm s := rfl

@[simp] theorem exec_beq (rs rt : Reg) (imm : Half) (s : State) : exec (.beq rs rt imm) s = execBeq rs rt imm s := rfl

@[simp] theorem exec_bne (rs rt : Reg) (imm : Half) (s : State) : exec (.bne rs rt imm) s = execBne rs rt imm s := rfl

@[simp] theorem exec_blez (rs : Reg) (imm : Half) (s : State) : exec (.blez rs imm) s = execBlez rs imm s := rfl

@[simp] theorem exec_bgtz (rs : Reg) (imm : Half) (s : State) : exec (.bgtz rs imm) s = execBgtz rs imm s := rfl

@[simp] theorem exec_bltz (rs : Reg) (imm : Half) (s : State) : exec (.bltz rs imm) s = execBltz rs imm s := rfl

@[simp] theorem exec_j (target : BitVec 26) (s : State) : exec (.j target) s = execJ target s := rfl

@[simp] theorem exec_jal (target : BitVec 26) (s : State) : exec (.jal target) s = execJal target s := rfl

@[simp] theorem exec_jr (rs : Reg) (s : State) : exec (.jr rs) s = execJr rs s := rfl

@[simp] theorem exec_jalr (rd rs : Reg) (s : State) : exec (.jalr rd rs) s = execJalr rd rs s := rfl

@[simp] theorem exec_mfhi (rd : Reg) (s : State) : exec (.mfhi rd) s = execMfhi rd s := rfl

@[simp] theorem exec_mflo (rd : Reg) (s : State) : exec (.mflo rd) s = execMflo rd s := rfl

@[simp] theorem exec_mfc0 (rt : Reg) (cd : CReg) (s : State) : exec (.mfc0 rt cd) s = execMfc0 rt cd s := rfl

@[simp] theorem exec_mtc0 (cd : CReg) (rt : Reg) (s : State) : exec (.mtc0 cd rt) s = execMtc0 cd rt s := rfl

@[simp] theorem exec_addS (fd fs ft : FReg) (s : State) : exec (.addS fd fs ft) s = execAddS fd fs ft s := rfl

@[simp] theorem exec_addD (fd fs ft : FReg) (s : State) : exec (.addD fd fs ft) s = execAddD fd fs ft s := rfl

@[simp] theorem exec_subS (fd fs ft : FReg) (s : State) : exec (.subS fd fs ft) s = execSubS fd fs ft s := rfl

@[simp] theorem exec_subD (fd fs ft : FReg) (s : State) : exec (.subD fd fs ft) s = execSubD fd fs ft s := rfl

@[simp] theorem exec_mulS (fd fs ft : FReg) (s : State) : exec (.mulS fd fs ft) s = execMulS fd fs ft s := rfl

@[simp] theorem exec_mulD (fd fs ft : FReg) (s : State) : exec (.mulD fd fs ft) s = execMulD fd fs ft s := rfl

@[simp] theorem exec_divS (fd fs ft : FReg) (s : State) : exec (.divS fd fs ft) s = execDivS fd fs ft s := rfl

@[simp] theorem exec_divD (fd fs ft : FReg) (s : State) : exec (.divD fd fs ft) s = execDivD fd fs ft s := rfl

@[simp] theorem exec_movS (fd fs : FReg) (s : State) : exec (.movS fd fs) s = execMovS fd fs s := rfl

@[simp] theorem exec_movD (fd fs : FReg) (s : State) : exec (.movD fd fs) s = execMovD fd fs s := rfl

@[simp] theorem exec_syscall (s : State) : exec (.syscall) s = execSyscall s := rfl

end Sys2Proof.Machine
end

