-- ==== Sys2Proof/Laws/State.lean ====
section
/-! SUPPORT. One lemma per field per update of the state, and what the register reads give after a write, so that no
proof unfolds a record update. -/

namespace Sys2Proof.Machine

-- advance

@[simp] theorem State.advance_pc (s : State) : s.advance.pc = s.pc + 4#32 := rfl

@[simp] theorem State.advance_gprs (s : State) : s.advance.gprs = s.gprs := rfl

@[simp] theorem State.advance_hi (s : State) : s.advance.hi = s.hi := rfl

@[simp] theorem State.advance_lo (s : State) : s.advance.lo = s.lo := rfl

@[simp] theorem State.advance_fprs (s : State) : s.advance.fprs = s.fprs := rfl

@[simp] theorem State.advance_status (s : State) : s.advance.status = s.status := rfl

@[simp] theorem State.advance_cause (s : State) : s.advance.cause = s.cause := rfl

@[simp] theorem State.advance_epc (s : State) : s.advance.epc = s.epc := rfl

@[simp] theorem State.advance_mode (s : State) : s.advance.mode = s.mode := rfl

@[simp] theorem State.advance_mem (s : State) : s.advance.mem = s.mem := rfl

@[simp] theorem State.advance_stored (s : State) : s.advance.stored = s.stored := rfl

@[simp] theorem State.advance_draws (s : State) : s.advance.draws = s.draws := rfl

@[simp] theorem State.advance_platform (s : State) : s.advance.platform = s.platform := rfl

@[simp] theorem State.advance_x (s : State) (q : Reg) : s.advance.x q = s.x q := rfl

@[simp] theorem State.advance_f (s : State) (q : FReg) : s.advance.f q = s.f q := rfl

-- goto

@[simp] theorem State.goto_pc (s : State) (a : Word) : (s.goto a).pc = a := rfl

@[simp] theorem State.goto_gprs (s : State) (a : Word) : (s.goto a).gprs = s.gprs := rfl

@[simp] theorem State.goto_hi (s : State) (a : Word) : (s.goto a).hi = s.hi := rfl

@[simp] theorem State.goto_lo (s : State) (a : Word) : (s.goto a).lo = s.lo := rfl

@[simp] theorem State.goto_fprs (s : State) (a : Word) : (s.goto a).fprs = s.fprs := rfl

@[simp] theorem State.goto_status (s : State) (a : Word) : (s.goto a).status = s.status := rfl

@[simp] theorem State.goto_cause (s : State) (a : Word) : (s.goto a).cause = s.cause := rfl

@[simp] theorem State.goto_epc (s : State) (a : Word) : (s.goto a).epc = s.epc := rfl

@[simp] theorem State.goto_mode (s : State) (a : Word) : (s.goto a).mode = s.mode := rfl

@[simp] theorem State.goto_mem (s : State) (a : Word) : (s.goto a).mem = s.mem := rfl

@[simp] theorem State.goto_stored (s : State) (a : Word) : (s.goto a).stored = s.stored := rfl

@[simp] theorem State.goto_draws (s : State) (a : Word) : (s.goto a).draws = s.draws := rfl

@[simp] theorem State.goto_platform (s : State) (a : Word) : (s.goto a).platform = s.platform := rfl

@[simp] theorem State.goto_x (s : State) (a : Word) (q : Reg) : (s.goto a).x q = s.x q := rfl

@[simp] theorem State.goto_f (s : State) (a : Word) (q : FReg) : (s.goto a).f q = s.f q := rfl

-- takeException

@[simp] theorem State.takeException_pc (s : State) (e : Exc) : (s.takeException e).pc = excVector := rfl

@[simp] theorem State.takeException_gprs (s : State) (e : Exc) : (s.takeException e).gprs = s.gprs := rfl

@[simp] theorem State.takeException_hi (s : State) (e : Exc) : (s.takeException e).hi = s.hi := rfl

@[simp] theorem State.takeException_lo (s : State) (e : Exc) : (s.takeException e).lo = s.lo := rfl

@[simp] theorem State.takeException_fprs (s : State) (e : Exc) : (s.takeException e).fprs = s.fprs := rfl

@[simp] theorem State.takeException_status (s : State) (e : Exc) : (s.takeException e).status = s.status := rfl

@[simp] theorem State.takeException_cause (s : State) (e : Exc) : (s.takeException e).cause = e.code := rfl

@[simp] theorem State.takeException_epc (s : State) (e : Exc) : (s.takeException e).epc = s.pc := rfl

@[simp] theorem State.takeException_mode (s : State) (e : Exc) : (s.takeException e).mode = .kernel := rfl

@[simp] theorem State.takeException_mem (s : State) (e : Exc) : (s.takeException e).mem = s.mem := rfl

@[simp] theorem State.takeException_stored (s : State) (e : Exc) : (s.takeException e).stored = s.stored := rfl

@[simp] theorem State.takeException_draws (s : State) (e : Exc) : (s.takeException e).draws = s.draws := rfl

@[simp] theorem State.takeException_platform (s : State) (e : Exc) : (s.takeException e).platform = s.platform := rfl

@[simp] theorem State.takeException_x (s : State) (e : Exc) (q : Reg) : (s.takeException e).x q = s.x q := rfl

@[simp] theorem State.takeException_f (s : State) (e : Exc) (q : FReg) : (s.takeException e).f q = s.f q := rfl

-- setHiLo

@[simp] theorem State.setHiLo_pc (s : State) (h l : Word) : (s.setHiLo h l).pc = s.pc := rfl

@[simp] theorem State.setHiLo_gprs (s : State) (h l : Word) : (s.setHiLo h l).gprs = s.gprs := rfl

@[simp] theorem State.setHiLo_hi (s : State) (h l : Word) : (s.setHiLo h l).hi = h := rfl

@[simp] theorem State.setHiLo_lo (s : State) (h l : Word) : (s.setHiLo h l).lo = l := rfl

@[simp] theorem State.setHiLo_fprs (s : State) (h l : Word) : (s.setHiLo h l).fprs = s.fprs := rfl

@[simp] theorem State.setHiLo_status (s : State) (h l : Word) : (s.setHiLo h l).status = s.status := rfl

@[simp] theorem State.setHiLo_cause (s : State) (h l : Word) : (s.setHiLo h l).cause = s.cause := rfl

@[simp] theorem State.setHiLo_epc (s : State) (h l : Word) : (s.setHiLo h l).epc = s.epc := rfl

@[simp] theorem State.setHiLo_mode (s : State) (h l : Word) : (s.setHiLo h l).mode = s.mode := rfl

@[simp] theorem State.setHiLo_mem (s : State) (h l : Word) : (s.setHiLo h l).mem = s.mem := rfl

@[simp] theorem State.setHiLo_stored (s : State) (h l : Word) : (s.setHiLo h l).stored = s.stored := rfl

@[simp] theorem State.setHiLo_draws (s : State) (h l : Word) : (s.setHiLo h l).draws = s.draws := rfl

@[simp] theorem State.setHiLo_platform (s : State) (h l : Word) : (s.setHiLo h l).platform = s.platform := rfl

@[simp] theorem State.setHiLo_x (s : State) (h l : Word) (q : Reg) : (s.setHiLo h l).x q = s.x q := rfl

@[simp] theorem State.setHiLo_f (s : State) (h l : Word) (q : FReg) : (s.setHiLo h l).f q = s.f q := rfl

-- drawHiLo

@[simp] theorem State.drawHiLo_pc (s : State) : s.drawHiLo.pc = s.pc := rfl

@[simp] theorem State.drawHiLo_gprs (s : State) : s.drawHiLo.gprs = s.gprs := rfl

@[simp] theorem State.drawHiLo_hi (s : State) : s.drawHiLo.hi = Config.freeWord (s.draws + 1) := rfl

@[simp] theorem State.drawHiLo_lo (s : State) : s.drawHiLo.lo = Config.freeWord s.draws := rfl

@[simp] theorem State.drawHiLo_fprs (s : State) : s.drawHiLo.fprs = s.fprs := rfl

@[simp] theorem State.drawHiLo_status (s : State) : s.drawHiLo.status = s.status := rfl

@[simp] theorem State.drawHiLo_cause (s : State) : s.drawHiLo.cause = s.cause := rfl

@[simp] theorem State.drawHiLo_epc (s : State) : s.drawHiLo.epc = s.epc := rfl

@[simp] theorem State.drawHiLo_mode (s : State) : s.drawHiLo.mode = s.mode := rfl

@[simp] theorem State.drawHiLo_mem (s : State) : s.drawHiLo.mem = s.mem := rfl

@[simp] theorem State.drawHiLo_stored (s : State) : s.drawHiLo.stored = s.stored := rfl

@[simp] theorem State.drawHiLo_draws (s : State) : s.drawHiLo.draws = s.draws + 2 := rfl

@[simp] theorem State.drawHiLo_platform (s : State) : s.drawHiLo.platform = s.platform := rfl

@[simp] theorem State.drawHiLo_x (s : State) (q : Reg) : s.drawHiLo.x q = s.x q := rfl

@[simp] theorem State.drawHiLo_f (s : State) (q : FReg) : s.drawHiLo.f q = s.f q := rfl

-- setF

@[simp] theorem State.setF_pc (s : State) (r : FReg) (v : Word) : (s.setF r v).pc = s.pc := rfl

@[simp] theorem State.setF_gprs (s : State) (r : FReg) (v : Word) : (s.setF r v).gprs = s.gprs := rfl

@[simp] theorem State.setF_hi (s : State) (r : FReg) (v : Word) : (s.setF r v).hi = s.hi := rfl

@[simp] theorem State.setF_lo (s : State) (r : FReg) (v : Word) : (s.setF r v).lo = s.lo := rfl

@[simp] theorem State.setF_fprs (s : State) (r : FReg) (v : Word) : (s.setF r v).fprs = s.fprs.set r v := rfl

@[simp] theorem State.setF_status (s : State) (r : FReg) (v : Word) : (s.setF r v).status = s.status := rfl

@[simp] theorem State.setF_cause (s : State) (r : FReg) (v : Word) : (s.setF r v).cause = s.cause := rfl

@[simp] theorem State.setF_epc (s : State) (r : FReg) (v : Word) : (s.setF r v).epc = s.epc := rfl

@[simp] theorem State.setF_mode (s : State) (r : FReg) (v : Word) : (s.setF r v).mode = s.mode := rfl

@[simp] theorem State.setF_mem (s : State) (r : FReg) (v : Word) : (s.setF r v).mem = s.mem := rfl

@[simp] theorem State.setF_stored (s : State) (r : FReg) (v : Word) : (s.setF r v).stored = s.stored := rfl

@[simp] theorem State.setF_draws (s : State) (r : FReg) (v : Word) : (s.setF r v).draws = s.draws := rfl

@[simp] theorem State.setF_platform (s : State) (r : FReg) (v : Word) : (s.setF r v).platform = s.platform := rfl

@[simp] theorem State.setF_x (s : State) (r : FReg) (v : Word) (q : Reg) : (s.setF r v).x q = s.x q := rfl

-- putBytes

@[simp] theorem State.putBytes_pc (s : State) (a : Word) (bs : List Byte) : (s.putBytes a bs).pc = s.pc := rfl

@[simp] theorem State.putBytes_gprs (s : State) (a : Word) (bs : List Byte) : (s.putBytes a bs).gprs = s.gprs := rfl

@[simp] theorem State.putBytes_hi (s : State) (a : Word) (bs : List Byte) : (s.putBytes a bs).hi = s.hi := rfl

@[simp] theorem State.putBytes_lo (s : State) (a : Word) (bs : List Byte) : (s.putBytes a bs).lo = s.lo := rfl

@[simp] theorem State.putBytes_fprs (s : State) (a : Word) (bs : List Byte) : (s.putBytes a bs).fprs = s.fprs := rfl

@[simp] theorem State.putBytes_status (s : State) (a : Word) (bs : List Byte) : (s.putBytes a bs).status = s.status := rfl

@[simp] theorem State.putBytes_cause (s : State) (a : Word) (bs : List Byte) : (s.putBytes a bs).cause = s.cause := rfl

@[simp] theorem State.putBytes_epc (s : State) (a : Word) (bs : List Byte) : (s.putBytes a bs).epc = s.epc := rfl

@[simp] theorem State.putBytes_mode (s : State) (a : Word) (bs : List Byte) : (s.putBytes a bs).mode = s.mode := rfl

@[simp] theorem State.putBytes_mem (s : State) (a : Word) (bs : List Byte) : (s.putBytes a bs).mem = Memory.writeBytes s.mem a.toNat bs := rfl

@[simp] theorem State.putBytes_stored (s : State) (a : Word) (bs : List Byte) : (s.putBytes a bs).stored = markStored s.stored a.toNat bs.length := rfl

@[simp] theorem State.putBytes_draws (s : State) (a : Word) (bs : List Byte) : (s.putBytes a bs).draws = s.draws := rfl

@[simp] theorem State.putBytes_platform (s : State) (a : Word) (bs : List Byte) : (s.putBytes a bs).platform = s.platform := rfl

@[simp] theorem State.putBytes_x (s : State) (a : Word) (bs : List Byte) (q : Reg) : (s.putBytes a bs).x q = s.x q := rfl

@[simp] theorem State.putBytes_f (s : State) (a : Word) (bs : List Byte) (q : FReg) : (s.putBytes a bs).f q = s.f q := rfl

-- placeWord

@[simp] theorem State.placeWord_pc (s : State) (w : Word) : (s.placeWord w).pc = s.pc := rfl

@[simp] theorem State.placeWord_gprs (s : State) (w : Word) : (s.placeWord w).gprs = s.gprs := rfl

@[simp] theorem State.placeWord_hi (s : State) (w : Word) : (s.placeWord w).hi = s.hi := rfl

@[simp] theorem State.placeWord_lo (s : State) (w : Word) : (s.placeWord w).lo = s.lo := rfl

@[simp] theorem State.placeWord_fprs (s : State) (w : Word) : (s.placeWord w).fprs = s.fprs := rfl

@[simp] theorem State.placeWord_status (s : State) (w : Word) : (s.placeWord w).status = s.status := rfl

@[simp] theorem State.placeWord_cause (s : State) (w : Word) : (s.placeWord w).cause = s.cause := rfl

@[simp] theorem State.placeWord_epc (s : State) (w : Word) : (s.placeWord w).epc = s.epc := rfl

@[simp] theorem State.placeWord_mode (s : State) (w : Word) : (s.placeWord w).mode = s.mode := rfl

@[simp] theorem State.placeWord_mem (s : State) (w : Word) : (s.placeWord w).mem = Memory.writeBytes s.mem s.pc.toNat (splitWord s.platform.byteOrder w) := rfl

@[simp] theorem State.placeWord_draws (s : State) (w : Word) : (s.placeWord w).draws = s.draws := rfl

@[simp] theorem State.placeWord_platform (s : State) (w : Word) : (s.placeWord w).platform = s.platform := rfl

@[simp] theorem State.placeWord_x (s : State) (w : Word) (q : Reg) : (s.placeWord w).x q = s.x q := rfl

@[simp] theorem State.placeWord_f (s : State) (w : Word) (q : FReg) : (s.placeWord w).f q = s.f q := rfl

-- setX

@[simp] theorem State.setX_pc (s : State) (r : Reg) (v : Word) : (s.setX r v).pc = s.pc := by
  unfold State.setX; split <;> rfl

@[simp] theorem State.setX_hi (s : State) (r : Reg) (v : Word) : (s.setX r v).hi = s.hi := by
  unfold State.setX; split <;> rfl

@[simp] theorem State.setX_lo (s : State) (r : Reg) (v : Word) : (s.setX r v).lo = s.lo := by
  unfold State.setX; split <;> rfl

@[simp] theorem State.setX_fprs (s : State) (r : Reg) (v : Word) : (s.setX r v).fprs = s.fprs := by
  unfold State.setX; split <;> rfl

@[simp] theorem State.setX_status (s : State) (r : Reg) (v : Word) : (s.setX r v).status = s.status := by
  unfold State.setX; split <;> rfl

@[simp] theorem State.setX_cause (s : State) (r : Reg) (v : Word) : (s.setX r v).cause = s.cause := by
  unfold State.setX; split <;> rfl

@[simp] theorem State.setX_epc (s : State) (r : Reg) (v : Word) : (s.setX r v).epc = s.epc := by
  unfold State.setX; split <;> rfl

@[simp] theorem State.setX_mode (s : State) (r : Reg) (v : Word) : (s.setX r v).mode = s.mode := by
  unfold State.setX; split <;> rfl

@[simp] theorem State.setX_mem (s : State) (r : Reg) (v : Word) : (s.setX r v).mem = s.mem := by
  unfold State.setX; split <;> rfl

@[simp] theorem State.setX_stored (s : State) (r : Reg) (v : Word) : (s.setX r v).stored = s.stored := by
  unfold State.setX; split <;> rfl

@[simp] theorem State.setX_draws (s : State) (r : Reg) (v : Word) : (s.setX r v).draws = s.draws := by
  unfold State.setX; split <;> rfl

@[simp] theorem State.setX_platform (s : State) (r : Reg) (v : Word) : (s.setX r v).platform = s.platform := by
  unfold State.setX; split <;> rfl

@[simp] theorem State.setX_f (s : State) (r : Reg) (v : Word) (q : FReg) : (s.setX r v).f q = s.f q := by
  simp [State.f]

-- setC0

@[simp] theorem State.setC0_pc (s : State) (c : Cop0Reg) (v : Word) : (s.setC0 c v).pc = s.pc := by
  cases c <;> rfl

@[simp] theorem State.setC0_gprs (s : State) (c : Cop0Reg) (v : Word) : (s.setC0 c v).gprs = s.gprs := by
  cases c <;> rfl

@[simp] theorem State.setC0_hi (s : State) (c : Cop0Reg) (v : Word) : (s.setC0 c v).hi = s.hi := by
  cases c <;> rfl

@[simp] theorem State.setC0_lo (s : State) (c : Cop0Reg) (v : Word) : (s.setC0 c v).lo = s.lo := by
  cases c <;> rfl

@[simp] theorem State.setC0_fprs (s : State) (c : Cop0Reg) (v : Word) : (s.setC0 c v).fprs = s.fprs := by
  cases c <;> rfl

@[simp] theorem State.setC0_mode (s : State) (c : Cop0Reg) (v : Word) : (s.setC0 c v).mode = s.mode := by
  cases c <;> rfl

@[simp] theorem State.setC0_mem (s : State) (c : Cop0Reg) (v : Word) : (s.setC0 c v).mem = s.mem := by
  cases c <;> rfl

@[simp] theorem State.setC0_stored (s : State) (c : Cop0Reg) (v : Word) : (s.setC0 c v).stored = s.stored := by
  cases c <;> rfl

@[simp] theorem State.setC0_draws (s : State) (c : Cop0Reg) (v : Word) : (s.setC0 c v).draws = s.draws := by
  cases c <;> rfl

@[simp] theorem State.setC0_platform (s : State) (c : Cop0Reg) (v : Word) : (s.setC0 c v).platform = s.platform := by
  cases c <;> rfl

@[simp] theorem State.setC0_x (s : State) (c : Cop0Reg) (v : Word) (q : Reg) : (s.setC0 c v).x q = s.x q := by
  simp [State.x]

@[simp] theorem State.setC0_f (s : State) (c : Cop0Reg) (v : Word) (q : FReg) : (s.setC0 c v).f q = s.f q := by
  simp [State.f]

-- setPair

@[simp] theorem State.setPair_pc (s : State) (r : FReg) (v : Double) : (s.setPair r v).pc = s.pc := by
  unfold State.setPair; split <;> rfl

@[simp] theorem State.setPair_gprs (s : State) (r : FReg) (v : Double) : (s.setPair r v).gprs = s.gprs := by
  unfold State.setPair; split <;> rfl

@[simp] theorem State.setPair_hi (s : State) (r : FReg) (v : Double) : (s.setPair r v).hi = s.hi := by
  unfold State.setPair; split <;> rfl

@[simp] theorem State.setPair_lo (s : State) (r : FReg) (v : Double) : (s.setPair r v).lo = s.lo := by
  unfold State.setPair; split <;> rfl

@[simp] theorem State.setPair_status (s : State) (r : FReg) (v : Double) : (s.setPair r v).status = s.status := by
  unfold State.setPair; split <;> rfl

@[simp] theorem State.setPair_cause (s : State) (r : FReg) (v : Double) : (s.setPair r v).cause = s.cause := by
  unfold State.setPair; split <;> rfl

@[simp] theorem State.setPair_epc (s : State) (r : FReg) (v : Double) : (s.setPair r v).epc = s.epc := by
  unfold State.setPair; split <;> rfl

@[simp] theorem State.setPair_mode (s : State) (r : FReg) (v : Double) : (s.setPair r v).mode = s.mode := by
  unfold State.setPair; split <;> rfl

@[simp] theorem State.setPair_mem (s : State) (r : FReg) (v : Double) : (s.setPair r v).mem = s.mem := by
  unfold State.setPair; split <;> rfl

@[simp] theorem State.setPair_stored (s : State) (r : FReg) (v : Double) : (s.setPair r v).stored = s.stored := by
  unfold State.setPair; split <;> rfl

@[simp] theorem State.setPair_draws (s : State) (r : FReg) (v : Double) : (s.setPair r v).draws = s.draws := by
  unfold State.setPair; split <;> rfl

@[simp] theorem State.setPair_platform (s : State) (r : FReg) (v : Double) : (s.setPair r v).platform = s.platform := by
  unfold State.setPair; split <;> rfl

@[simp] theorem State.setPair_x (s : State) (r : FReg) (v : Double) (q : Reg) : (s.setPair r v).x q = s.x q := by
  simp [State.x]

-- What the register reads give after a write.

/-- x[r] after a write to x[d]: the value written, but for register 0, which keeps reading 0 (R21). -/
@[simp] theorem State.setX_x (s : State) (d : Reg) (v : Word) (r : Reg) :
    (s.setX d v).x r = if r = d ∧ d ≠ 0 then v else s.x r := by
  unfold State.setX State.x
  by_cases hd : d = 0
  · simp [hd]
  · by_cases hr : r = d
    · subst hr; simp [hd]
    · by_cases h0 : r = 0
      · simp [h0, hd, Ne.symm hd]
      · have : d.val ≠ r.val := fun h => hr (Fin.ext h.symm)
        simp [hd, hr, h0, this]

/-- f[r] after a write to f[d] (R30). -/
@[simp] theorem State.setF_f (s : State) (d : FReg) (v : Word) (r : FReg) :
    (s.setF d v).f r = if r = d then v else s.f r := by
  unfold State.setF State.f
  by_cases hr : r = d
  · subst hr; simp
  · have : d.val ≠ r.val := fun h => hr (Fin.ext h.symm)
    simp [hr, this]

@[simp] theorem State.x_zero (s : State) : s.x 0 = 0#32 := rfl

/-- The slot behind x[0] is never written. -/
@[simp] theorem State.setX_slot_zero (s : State) (d : Reg) (v : Word) :
    (s.setX d v).gprs[0] = s.gprs[0] := by
  unfold State.setX
  by_cases hd : d = 0
  · simp [hd]
  · have : d.val ≠ 0 := fun h => hd (Fin.ext h)
    simp [hd, this]

@[simp] theorem State.setC0_c0 (s : State) (c : Cop0Reg) (v : Word) (d : Cop0Reg) :
    (s.setC0 c v).c0 d = if d = c then v else s.c0 d := by
  cases c <;> cases d <;> rfl

@[simp] theorem State.setC0_status (s : State) (c : Cop0Reg) (v : Word) :
    (s.setC0 c v).status = if c = .status then v else s.status := by
  cases c <;> rfl

@[simp] theorem State.setC0_cause (s : State) (c : Cop0Reg) (v : Word) :
    (s.setC0 c v).cause = if c = .cause then v else s.cause := by
  cases c <;> rfl

@[simp] theorem State.setC0_epc (s : State) (c : Cop0Reg) (v : Word) :
    (s.setC0 c v).epc = if c = .epc then v else s.epc := by
  cases c <;> rfl

end Sys2Proof.Machine
end

