-- ==== Sys2Proof/Laws/Memory.lean ====
section
/-! SUPPORT. Laws of memory: a read after a write, and that every operation on memory and on the set of stored-to bytes
keeps its canonical form. -/

namespace Sys2Proof.Machine

/-- A byte read after a byte is written. -/
@[simp] theorem Memory.read?_write (m : Memory) (a : Nat) (v : Byte) (b : Nat) :
    Memory.read? (Memory.write m a v) b = if b = a then some v else Memory.read? m b := by
  induction m with
  | nil => rfl
  | cons c m ih =>
    obtain ⟨k, u⟩ := c
    unfold Memory.write
    by_cases hlt : a < k
    · simp [hlt, Memory.read?]
    · by_cases heq : a = k
      · subst heq
        by_cases hb : b = a <;> simp [Memory.read?, hb]
      · by_cases hb : b = k
        · subst hb; simp [hlt, heq, Memory.read?, Ne.symm heq]
        · simp [hlt, heq, Memory.read?, hb, ih]

/-- A byte read after a run of bytes is written at `a`. -/
theorem Memory.read?_writeBytes (m : Memory) (a : Nat) (bs : List Byte) (b : Nat) :
    Memory.read? (Memory.writeBytes m a bs) b =
      if a ≤ b ∧ b < a + bs.length then bs[b - a]? else Memory.read? m b := by
  induction bs generalizing m a with
  | nil => simp [Memory.writeBytes, show ¬ (a ≤ b ∧ b < a) by omega]
  | cons v vs ih =>
    rw [Memory.writeBytes, ih, Memory.read?_write]
    by_cases h1 : a + 1 ≤ b ∧ b < a + 1 + vs.length
    · have : b - a = (b - (a + 1)) + 1 := by omega
      simp [h1, show a ≤ b ∧ b < a + (vs.length + 1) by omega, this]
    · by_cases h2 : b = a
      · subst h2; simp
      · rw [if_neg h1, if_neg h2, List.length_cons, if_neg (by omega)]

theorem Memory.mem_keys_write (m : Memory) (a : Nat) (v : Byte) (k : Nat) :
    k ∈ (Memory.write m a v).map Prod.fst ↔ k = a ∨ k ∈ m.map Prod.fst := by
  induction m with
  | nil => simp [Memory.write]
  | cons c m ih =>
    obtain ⟨b, u⟩ := c
    unfold Memory.write
    by_cases hlt : a < b
    · simp [hlt]
    · by_cases heq : a = b
      · subst heq; simp
      · simp only [hlt, heq, if_false, List.map_cons, List.mem_cons, ih]; tauto

theorem Memory.keys_rise_write (m : Memory) (a : Nat) (v : Byte) (h : (m.map Prod.fst).Pairwise (· < ·)) :
    ((Memory.write m a v).map Prod.fst).Pairwise (· < ·) := by
  induction m with
  | nil => simp [Memory.write]
  | cons c m ih =>
    obtain ⟨b, u⟩ := c
    simp only [List.map_cons, List.pairwise_cons] at h
    obtain ⟨hb, hm⟩ := h
    unfold Memory.write
    by_cases hlt : a < b
    · rw [if_pos hlt]
      simp only [List.map_cons, List.pairwise_cons, List.mem_cons, forall_eq_or_imp]
      exact ⟨⟨hlt, fun k hk => lt_trans hlt (hb k hk)⟩, hb, hm⟩
    · by_cases heq : a = b
      · subst heq; simpa using ⟨fun k x hx => hb k (List.mem_map_of_mem (f := Prod.fst) hx), hm⟩
      · simp only [hlt, heq, if_false, List.map_cons, List.pairwise_cons]
        refine ⟨fun k hk => ?_, ih hm⟩
        rcases (Memory.mem_keys_write m a v k).1 hk with rfl | hk
        · omega
        · exact hb k hk

theorem Memory.forall_keys_iff (m : Memory) (p : Nat → Prop) :
    (∀ c ∈ m, p c.1) ↔ ∀ k ∈ m.map Prod.fst, p k := by
  simp

/-- Writing a byte at an address of the space keeps the canonical form. -/
theorem Memory.wf_write {m : Memory} (h : m.wf) {a : Nat} (ha : a < 2 ^ 32) (v : Byte) : (Memory.write m a v).wf := by
  refine ⟨Memory.keys_rise_write m a v h.1, ?_⟩
  rw [Memory.forall_keys_iff _ (· < 2 ^ 32)]
  intro k hk
  rcases (Memory.mem_keys_write m a v k).1 hk with rfl | hk
  · exact ha
  · exact (Memory.forall_keys_iff m (· < 2 ^ 32)).1 h.2 k hk

/-- Writing bytes inside the space keeps the canonical form. -/
theorem Memory.wf_writeBytes {m : Memory} (h : m.wf) {a : Nat} {bs : List Byte} (ha : a + bs.length ≤ 2 ^ 32) :
    (Memory.writeBytes m a bs).wf := by
  induction bs generalizing m a with
  | nil => exact h
  | cons v vs ih =>
    simp only [List.length_cons] at ha
    exact ih (Memory.wf_write h (by omega) v) (by omega)

/-- Reset memory has the canonical form. -/
theorem Memory.wf_reset : State.reset.mem.wf := by simp [State.reset, Memory.wf]

-- The set of stored-to bytes.

theorem mem_insertAddr (l : List Nat) (a b : Nat) : b ∈ insertAddr l a ↔ b = a ∨ b ∈ l := by
  induction l with
  | nil => simp [insertAddr]
  | cons c l ih =>
    unfold insertAddr
    by_cases h1 : a < c
    · simp [h1]
    · by_cases h2 : a = c
      · subst h2; simp
      · simp only [h1, h2, if_false, List.mem_cons, ih]; tauto

theorem insertAddr_rises (l : List Nat) (a : Nat) (h : l.Pairwise (· < ·)) : (insertAddr l a).Pairwise (· < ·) := by
  induction l with
  | nil => simp [insertAddr]
  | cons c l ih =>
    obtain ⟨hc, hl⟩ := List.pairwise_cons.1 h
    unfold insertAddr
    by_cases h1 : a < c
    · simp only [h1, if_true]
      exact List.pairwise_cons.2 ⟨fun k hk => by
        rcases List.mem_cons.1 hk with rfl | hk
        · exact h1
        · exact lt_trans h1 (hc k hk), h⟩
    · by_cases h2 : a = c
      · simpa [h1, h2] using ⟨hc, hl⟩
      · simp only [h1, h2, if_false]
        refine List.pairwise_cons.2 ⟨fun k hk => ?_, ih hl⟩
        rcases (mem_insertAddr l a k).1 hk with rfl | hk
        · omega
        · exact hc k hk

theorem mem_foldl_insertAddr (l ks : List Nat) (b : Nat) : b ∈ ks.foldl insertAddr l ↔ b ∈ l ∨ b ∈ ks := by
  induction ks generalizing l with
  | nil => simp
  | cons k ks ih => rw [List.foldl_cons, ih, mem_insertAddr, List.mem_cons]; tauto

/-- The stored-to bytes after a store of `n` bytes at `a`. -/
@[simp] theorem mem_markStored (l : List Nat) (a n b : Nat) :
    b ∈ markStored l a n ↔ b ∈ l ∨ (a ≤ b ∧ b < a + n) := by
  simp [markStored, mem_foldl_insertAddr, List.mem_range'_1]

/-- Recording a store keeps the addresses rising. -/
theorem markStored_rises (l : List Nat) (a n : Nat) (h : l.Pairwise (· < ·)) :
    (markStored l a n).Pairwise (· < ·) := by
  unfold markStored
  generalize List.range' a n = ks
  induction ks generalizing l with
  | nil => exact h
  | cons k ks ih => exact ih _ (insertAddr_rises l k h)

end Sys2Proof.Machine
end

