-- ==== Sys2Proof/Laws/Ops.lean ====
section
/-! SUPPORT. One lemma per shared operation that says once everything it can do, in the words of Safety.lean: what the
state it answers holds, and when it answers none. -/

namespace Sys2Proof.Machine

-- Exceptions.

/-- Raising `e` answers a next state: the exception entry. -/
theorem State.raise_spec (s : State) (e : Exc) : ∃ t, s.raise e = .next t ∧ EntersException s t e.code :=
  ⟨_, rfl, rfl, rfl, rfl, rfl, rfl, fun _ => rfl, fun _ => rfl, ⟨rfl, rfl⟩, ⟨fun _ => rfl, fun _ => Iff.rfl⟩, rfl, rfl⟩

/-- The only state raising `e` can answer. -/
theorem State.raise_eq_next {s t : State} {e : Exc} : s.raise e = .next t ↔ t = s.takeException e := by
  simp [State.raise, eq_comm]

/-- The five codes. -/
theorem Exc.code_mem (e : Exc) : e.code ∈ [4#32, 8#32, 10#32, 12#32, 15#32] := by cases e <;> decide

-- Results in a register.

theorem State.setX_advance_spec (s : State) (r : Reg) (v : Word) :
    (s.setX r v).advance.pc = s.pc + 4#32 ∧ WritesX s (s.setX r v).advance r v := by
  refine ⟨by simp, fun q => by simp, ?_⟩
  simp [KeepsF, KeepsHiLo, KeepsCop0, KeepsMemory, KeepsPlatform, KeepsDraws]

/-- A result in a general register: next state, `pc + 4`, that register and nothing else. -/
theorem State.finishX_spec (s : State) (r : Reg) (v : Word) :
    ∃ t, s.finishX r v = .next t ∧ t.pc = s.pc + 4#32 ∧ WritesX s t r v :=
  ⟨_, rfl, s.setX_advance_spec r v⟩

/-- A checked result: the exception on overflow, else as `finishX`. -/
theorem State.finishChecked_spec (s : State) (r : Reg) (overflow : Bool) (v : Word) :
    (overflow = true ∧ ∃ t, s.finishChecked r overflow v = .next t ∧ EntersException s t 12#32) ∨
      (overflow = false ∧ ∃ t, s.finishChecked r overflow v = .next t ∧ t.pc = s.pc + 4#32 ∧ WritesX s t r v) := by
  cases overflow
  · exact .inr ⟨rfl, s.finishX_spec r v⟩
  · exact .inl ⟨rfl, s.raise_spec .integerOverflow⟩

theorem State.setHiLo_advance_spec (s : State) (h l : Word) :
    (s.setHiLo h l).advance.pc = s.pc + 4#32 ∧ WritesHiLo s (s.setHiLo h l).advance h l :=
  ⟨rfl, rfl, rfl, fun _ => rfl, fun _ => rfl, ⟨rfl, rfl, rfl⟩, rfl, ⟨fun _ => rfl, fun _ => Iff.rfl⟩, rfl, rfl⟩

/-- A product: next state, its halves in Hi and Lo. -/
theorem State.finishProduct_spec (s : State) (p : Double) :
    ∃ t, s.finishProduct p = .next t ∧ t.pc = s.pc + 4#32 ∧ WritesHiLo s t (p.extractLsb' 32 32) (p.extractLsb' 0 32) :=
  ⟨_, rfl, s.setHiLo_advance_spec _ _⟩

/-- Two free values drawn for Hi and Lo: all else, but the count of draws, is kept. -/
theorem State.drawHiLo_advance_spec (s : State) :
    s.drawHiLo.advance.pc = s.pc + 4#32 ∧ LeavesHiLoOpen s s.drawHiLo.advance :=
  ⟨rfl, fun _ => rfl, fun _ => rfl, ⟨rfl, rfl, rfl⟩, rfl, ⟨fun _ => rfl, fun _ => Iff.rfl⟩, rfl⟩

theorem State.setF_advance_spec (s : State) (r : FReg) (v : Word) :
    (s.setF r v).advance.pc = s.pc + 4#32 ∧ WritesF s (s.setF r v).advance r v :=
  ⟨rfl, fun q => by simp, fun _ => rfl, ⟨rfl, rfl⟩, ⟨rfl, rfl, rfl⟩, rfl, ⟨fun _ => rfl, fun _ => Iff.rfl⟩, rfl, rfl⟩

/-- A single-precision result: the register written, or the exception. -/
theorem State.finishSingle_spec (s : State) (fd : FReg) (r : FpResult 32) :
    (∃ v, r = .ok v ∧ ∃ t, s.finishSingle fd r = .next t ∧ t.pc = s.pc + 4#32 ∧ WritesF s t fd v) ∨
      (r = .trap ∧ ∃ t, s.finishSingle fd r = .next t ∧ EntersException s t 15#32) := by
  cases r with
  | ok v => exact .inl ⟨v, rfl, _, rfl, s.setF_advance_spec fd v⟩
  | trap => exact .inr ⟨rfl, s.raise_spec .floatingPoint⟩

/-- The second register of a pair is not the first. -/
theorem succ_ne (n : FReg) : n + 1 ≠ n := by
  intro e
  have := congrArg Fin.val e
  rw [Fin.val_add] at this
  simp at this
  omega

theorem State.setTwoF_advance_spec (s : State) (n : FReg) (v u : Word) :
    ((s.setF n v).setF (n + 1) u).advance.pc = s.pc + 4#32 ∧
      WritesTwoF s ((s.setF n v).setF (n + 1) u).advance n v u := by
  refine ⟨rfl, fun q => ?_, fun _ => rfl, ⟨rfl, rfl⟩, ⟨rfl, rfl, rfl⟩, rfl, ⟨fun _ => rfl, fun _ => Iff.rfl⟩, rfl, rfl⟩
  by_cases h1 : q = n
  · subst h1; simp [Ne.symm (succ_ne q)]
  · simp [h1]

/-- What a pair reads after it is written (46_float.md R214). -/
theorem State.pair_setPair (s : State) (n : FReg) (v : Double) : (s.setPair n v).pair n = v := by
  have hv : putAt 64 32 (v.extractLsb' 32 32) ||| putAt 64 0 (v.extractLsb' 0 32) = v := by
    apply BitVec.eq_of_getLsbD_eq
    intro i hi
    simp only [BitVec.getLsbD_or, getLsbD_putAt, BitVec.getLsbD_extractLsb', hi]
    by_cases a : i < 32
    · simp [a, show ¬ 32 ≤ i by omega]
    · simp [a, show 32 ≤ i by omega, show i - 32 < 32 by omega, show 32 + (i - 32) = i by omega]
  cases hp : s.platform.pairOrder <;>
    simp [State.pair, State.setPair, hp, Ne.symm (succ_ne n), hv]

-- Memory.

theorem aligned_fits {a : Word} {n : Nat} (hn : n = 1 ∨ n = 2 ∨ n = 4) (h : a.toNat % n = 0) :
    a.toNat + n ≤ 2 ^ 32 := by
  have := a.isLt
  rcases hn with rfl | rfl | rfl <;> omega

/-- When an access is to an illegal address (20_memory.md R55). -/
theorem State.illegalAddress_iff (s : State) (a : Word) (n : Nat) (k : AccessKind) :
    s.illegalAddress a n k = true ↔ a.toNat % n ≠ 0 ∨ legalAddr s.platform s.mode a n k = false := by
  simp [State.illegalAddress]

theorem State.illegalAddress_eq_false_iff (s : State) (a : Word) (n : Nat) (k : AccessKind) :
    s.illegalAddress a n k = false ↔ a.toNat % n = 0 ∧ legalAddr s.platform s.mode a n k = true := by
  simp [State.illegalAddress]

/-- A load: the exception where the address is illegal; else `write` of the value with `pc` advanced; else the fault. -/
theorem State.loadThen_cases {w : Nat} (s : State) (ea : Word) (n : Nat) (value : Option (BitVec w))
    (write : BitVec w → State) :
    (s.illegalAddress ea n .load = true ∧ s.loadThen ea n value write = s.raise .illegalAddress) ∨
      (s.illegalAddress ea n .load = false ∧
        ((∃ v, value = some v ∧ s.loadThen ea n value write = .next (write v).advance) ∨
          (value = none ∧ s.loadThen ea n value write = .fault .unwrittenLoad))) := by
  unfold State.loadThen
  cases s.illegalAddress ea n .load
  · cases value with
    | none => exact .inr ⟨rfl, .inr ⟨rfl, rfl⟩⟩
    | some v => exact .inr ⟨rfl, .inl ⟨v, rfl, rfl⟩⟩
  · exact .inl ⟨rfl, rfl⟩

theorem State.putBytes_advance_spec (s : State) (ea : Word) (bs : List Byte) :
    (s.putBytes ea bs).advance.pc = s.pc + 4#32 ∧ WritesMemory s (s.putBytes ea bs).advance ea.toNat bs :=
  ⟨rfl, fun b => Memory.read?_writeBytes s.mem ea.toNat bs b, fun b => mem_markStored s.stored ea.toNat bs.length b,
    fun _ => rfl, fun _ => rfl, ⟨rfl, rfl⟩, ⟨rfl, rfl, rfl⟩, rfl, rfl, rfl⟩

/-- A store: the exception where the address is illegal; else the bytes written, and nothing else. -/
theorem State.store_spec (s : State) (ea : Word) (n : Nat) (bs : List Byte) :
    (s.illegalAddress ea n .store = true ∧ ∃ t, s.store ea n bs = .next t ∧ EntersException s t 4#32) ∨
      (s.illegalAddress ea n .store = false ∧
        ∃ t, s.store ea n bs = .next t ∧ t.pc = s.pc + 4#32 ∧ WritesMemory s t ea.toNat bs) := by
  cases h : s.illegalAddress ea n .store
  · refine .inr ⟨rfl, _, ?_, s.putBytes_advance_spec ea bs⟩
    simp [State.store, h]
  · refine .inl ⟨rfl, ?_⟩
    rw [State.store, if_pos h]
    exact s.raise_spec .illegalAddress

/-- A halfword has a value exactly where both of its bytes have one. -/
theorem Memory.readHalf?_eq_some {o : ByteOrder} {m : Memory} {a : Nat} {v : Half} :
    Memory.readHalf? o m a = some v ↔
      ∃ b0 b1, Memory.read? m a = some b0 ∧ Memory.read? m (a + 1) = some b1 ∧ joinHalf o b0 b1 = v := by
  unfold Memory.readHalf?
  cases Memory.read? m a <;> cases Memory.read? m (a + 1) <;> simp

/-- A word has a value exactly where its four bytes have one. -/
theorem Memory.readWord?_eq_some {o : ByteOrder} {m : Memory} {a : Nat} {v : Word} :
    Memory.readWord? o m a = some v ↔
      ∃ b0 b1 b2 b3, Memory.read? m a = some b0 ∧ Memory.read? m (a + 1) = some b1 ∧
        Memory.read? m (a + 2) = some b2 ∧ Memory.read? m (a + 3) = some b3 ∧ joinWord o b0 b1 b2 b3 = v := by
  unfold Memory.readWord?
  cases Memory.read? m a <;> cases Memory.read? m (a + 1) <;> cases Memory.read? m (a + 2) <;>
    cases Memory.read? m (a + 3) <;> simp

theorem Memory.readHalf?_eq_none {o : ByteOrder} {m : Memory} {a : Nat} :
    Memory.readHalf? o m a = none ↔ Memory.read? m a = none ∨ Memory.read? m (a + 1) = none := by
  unfold Memory.readHalf?
  cases Memory.read? m a <;> cases Memory.read? m (a + 1) <;> simp

theorem Memory.readWord?_eq_none {o : ByteOrder} {m : Memory} {a : Nat} :
    Memory.readWord? o m a = none ↔ Memory.read? m a = none ∨ Memory.read? m (a + 1) = none ∨
      Memory.read? m (a + 2) = none ∨ Memory.read? m (a + 3) = none := by
  unfold Memory.readWord?
  cases Memory.read? m a <;> cases Memory.read? m (a + 1) <;> cases Memory.read? m (a + 2) <;>
    cases Memory.read? m (a + 3) <;> simp

/-- The value of four bytes is the word they make up. -/
theorem bytesValue_word (o : ByteOrder) (b0 b1 b2 b3 : Byte) :
    bytesValue o [b0, b1, b2, b3] = (joinWord o b0 b1 b2 b3).toNat := by
  have or_add : ∀ x y n : Nat, y < 2 ^ n → x <<< n ||| y = x <<< n + y := fun x y n h =>
    (Nat.shiftLeft_add_eq_or_of_lt h x).symm
  have h0 := b0.isLt
  have h1 := b1.isLt
  have h2 := b2.isLt
  have h3 := b3.isLt
  have key : ∀ a b c d : Byte,
      (putAt 32 24 a ||| putAt 32 16 b ||| putAt 32 8 c ||| putAt 32 0 d : Word) = (a ++ b ++ c ++ d : BitVec 32) := by
    intro a b c d
    apply BitVec.eq_of_getLsbD_eq
    intro i hi
    simp only [BitVec.getLsbD_or, getLsbD_putAt, BitVec.getLsbD_append, hi]
    by_cases p : i < 8
    · simp [p, show ¬ 8 ≤ i by omega, show ¬ 16 ≤ i by omega, show ¬ 24 ≤ i by omega]
    by_cases q : i < 16
    · simp [p, show 8 ≤ i by omega, show i - 8 < 8 by omega, show ¬ 16 ≤ i by omega, show ¬ 24 ≤ i by omega]
    by_cases r : i < 24
    · simp [p, show 8 ≤ i by omega, show ¬ i - 8 < 8 by omega, show 16 ≤ i by omega, show i - 16 < 8 by omega,
        Nat.sub_sub, show ¬ 24 ≤ i by omega, BitVec.getLsbD_of_ge c (i - 8) (by omega)]
    · simp [p, show 8 ≤ i by omega, show ¬ i - 8 < 8 by omega, show 16 ≤ i by omega, show ¬ i - 16 < 8 by omega,
        Nat.sub_sub, show 24 ≤ i by omega, BitVec.getLsbD_of_ge c (i - 8) (by omega),
        BitVec.getLsbD_of_ge b (i - 16) (by omega)]
  cases o <;> simp only [bytesValue, joinWord, List.foldl, List.foldr, key, BitVec.toNat_append, Nat.shiftLeft_eq] <;>
    simp only [← Nat.shiftLeft_eq] <;>
    rw [or_add _ _ _ (by omega), or_add _ _ _ (by omega), or_add _ _ _ (by omega)] <;>
    simp only [Nat.shiftLeft_eq] <;> omega

/-- The value of two bytes is the halfword they make up. -/
theorem bytesValue_half (o : ByteOrder) (b0 b1 : Byte) : bytesValue o [b0, b1] = (joinHalf o b0 b1).toNat := by
  have h0 := b0.isLt
  have h1 := b1.isLt
  have key : ∀ a b : Byte, (putAt 16 8 a ||| putAt 16 0 b : Half) = (a ++ b : BitVec 16) := by
    intro a b
    apply BitVec.eq_of_getLsbD_eq
    intro i hi
    simp only [BitVec.getLsbD_or, getLsbD_putAt, BitVec.getLsbD_append, hi]
    by_cases p : i < 8
    · simp [p, show ¬ 8 ≤ i by omega]
    · simp [p, show 8 ≤ i by omega]
  cases o <;> simp only [bytesValue, joinHalf, List.foldl, List.foldr, key, BitVec.toNat_append] <;>
    rw [← Nat.shiftLeft_add_eq_or_of_lt (by omega)] <;> simp only [Nat.shiftLeft_eq] <;> omega

-- Fetch.

theorem State.storedTo_eq_false_iff (s : State) (a : Word) :
    s.storedTo a = false ↔ ∀ k, k < 4 → a.toNat + k ∉ s.stored := by
  simp only [State.storedTo, List.any_eq_false, List.mem_range'_1, decide_eq_true_eq]
  constructor
  · intro h k hk; exact h _ ⟨by omega, by omega⟩
  · intro h b hb
    have := h (b - a.toNat) (by omega)
    rwa [show a.toNat + (b - a.toNat) = b by omega] at this

/-- What a fetch finds: the four cases, and when each. -/
theorem State.fetch_cases (s : State) :
    (s.illegalAddress s.pc 4 .fetch = true ∧ s.fetch = .illegalAddress) ∨
      (s.illegalAddress s.pc 4 .fetch = false ∧
        ((s.storedTo s.pc = true ∧ s.fetch = .selfModified) ∨
          (s.storedTo s.pc = false ∧
            ((∃ w, s.wordAt s.pc = some w ∧ s.fetch = .word w) ∨ (s.wordAt s.pc = none ∧ s.fetch = .unwritten))))) := by
  unfold State.fetch
  cases s.illegalAddress s.pc 4 .fetch
  · cases s.storedTo s.pc
    · cases s.wordAt s.pc with
      | none => exact .inr ⟨rfl, .inr ⟨rfl, .inr ⟨rfl, rfl⟩⟩⟩
      | some w => exact .inr ⟨rfl, .inr ⟨rfl, .inl ⟨w, rfl, rfl⟩⟩⟩
    · exact .inr ⟨rfl, .inl ⟨rfl, rfl⟩⟩
  · exact .inl ⟨rfl, rfl⟩

/-- A next state of a step comes from one of three places: the fetch's exception, the decoder's, or an instruction. -/
theorem step_cases {s t : State} (h : step s = .next t) :
    (s.fetch = .illegalAddress ∧ t = s.takeException .illegalAddress) ∨
      (∃ w e, s.fetch = .word w ∧ decodeWord w = .error e ∧ t = s.takeException .illegalOpcode) ∨
      ∃ w i, s.fetch = .word w ∧ decodeWord w = .ok i ∧ exec i s = .next t := by
  unfold step State.fetchThen at h
  cases hf : s.fetch with
  | illegalAddress => rw [hf] at h; exact .inl ⟨rfl, State.raise_eq_next.1 h⟩
  | selfModified => rw [hf] at h; cases h
  | unwritten => rw [hf] at h; cases h
  | word w =>
    rw [hf] at h
    simp only [State.decodeThen] at h
    cases hd : decodeWord w with
    | error e => rw [hd] at h; exact .inr (.inl ⟨w, e, rfl, hd, State.raise_eq_next.1 h⟩)
    | ok i => rw [hd] at h; exact .inr (.inr ⟨w, i, rfl, hd, h⟩)

/-- A step that fetches a word and decodes it is the instruction's meaning. -/
theorem step_of_fetch {s : State} {w : Word} {i : Instr} (hf : s.fetch = .word w) (hd : decodeWord w = .ok i) :
    step s = exec i s := by
  simp [step, State.fetchThen, State.decodeThen, hf, hd]

/-- A word placed at a legal `pc` is the word the next fetch finds. -/
theorem State.fetch_placeWord {s : State} (h : s.illegalAddress s.pc 4 .fetch = false) (w : Word) :
    (s.placeWord w).fetch = .word w := by
  obtain ⟨b0, b1, b2, b3, hb, hj⟩ := exists_splitWord s.platform.byteOrder w
  have hs : (s.placeWord w).storedTo s.pc = false := by
    rw [State.storedTo_eq_false_iff]
    intro k hk hm
    simp [State.placeWord] at hm
    omega
  have hw : (s.placeWord w).wordAt s.pc = some w := by
    refine Memory.readWord?_eq_some.2 ⟨b0, b1, b2, b3, ?_, ?_, ?_, ?_, hj⟩ <;>
      simp [Memory.read?_writeBytes, hb]
  have hi : (s.placeWord w).illegalAddress s.pc 4 .fetch = false := h
  simp [State.fetch, hi, hs, hw]

/-- Placing a word at an aligned `pc` keeps the canonical form of memory. -/
theorem State.placeWord_mem_wf {s : State} (hm : s.mem.wf) (h : s.pc.toNat % 4 = 0) (w : Word) :
    (s.placeWord w).mem.wf := by
  have := aligned_fits (.inr (.inr rfl)) h
  exact Memory.wf_writeBytes hm (by simpa using this)

-- Control transfer and coprocessor 0.

/-- A branch: next state, the target or the next instruction, nothing else changed. -/
theorem State.branchIf_spec (s : State) (taken : Bool) (imm : Half) :
    ∃ t, s.branchIf taken imm = .next t ∧ OnlyPc s t ∧
      t.pc = if taken = true then branchTarget s.pc imm else s.pc + 4#32 := by
  cases taken <;>
    exact ⟨_, rfl, ⟨fun _ => rfl, fun _ => rfl, ⟨rfl, rfl⟩, ⟨rfl, rfl, rfl⟩, rfl, ⟨fun _ => rfl, fun _ => Iff.rfl⟩, rfl,
      rfl⟩, rfl⟩

theorem cop0Reg?_eq_none (cd : CReg) : cop0Reg? cd = none ↔ ¬ namedCop0 cd := by
  unfold cop0Reg? namedCop0
  split_ifs <;> simp_all

/-- A coprocessor 0 move: what it answers in each of the three cases. -/
theorem State.cop0Then_cases (s : State) (cd : CReg) (run : Cop0Reg → State) :
    (¬ namedCop0 cd ∧ s.cop0Then cd run = .refused .cop0Register) ∨
      (∃ r, cop0Reg? cd = some r ∧ s.mode = .user ∧ s.cop0Then cd run = .refused .cop0UserMode) ∨
      ∃ r, cop0Reg? cd = some r ∧ s.mode = .kernel ∧ s.cop0Then cd run = .next (run r).advance := by
  unfold State.cop0Then
  cases hr : cop0Reg? cd with
  | none => exact .inl ⟨(cop0Reg?_eq_none cd).1 hr, by cases s.mode <;> rfl⟩
  | some r =>
    cases hm : s.mode with
    | user => exact .inr (.inl ⟨r, rfl, rfl, rfl⟩)
    | kernel => exact .inr (.inr ⟨r, rfl, rfl, rfl⟩)

end Sys2Proof.Machine
end

