-- ==== Sys2Proof/Laws/Operands.lean ====
section
/-! SUPPORT. What the assembled operands and the tested conditions are, as numbers and as concatenations of fields. -/

namespace Sys2Proof.Machine

/-- A word whose two parts meet at bit `k` is their concatenation. -/
theorem putAt_or_eq_append {w m k : Nat} (a : BitVec m) (b : BitVec k) (h : m + k = w) :
    putAt w k a ||| putAt w 0 b = (a ++ b).cast h := by
  subst h
  apply BitVec.eq_of_getLsbD_eq
  intro i hi
  simp only [BitVec.getLsbD_or, getLsbD_putAt, BitVec.getLsbD_cast, BitVec.getLsbD_append, hi]
  by_cases p : i < k
  · simp [p, show ¬ k ≤ i by omega]
  · simp [p, show k ≤ i by omega]

/-- `pair(n)` as a concatenation, by the pair order (46_float.md R214). -/
theorem State.pair_eq_append (s : State) (n : FReg) :
    s.pair n = match s.platform.pairOrder with
      | .firstHigh => s.f n ++ s.f (n + 1)
      | .firstLow  => s.f (n + 1) ++ s.f n := by
  unfold State.pair
  cases s.platform.pairOrder
  · exact (putAt_or_eq_append (w := 64) (s.f n) (s.f (n + 1)) rfl).trans (BitVec.cast_eq rfl _)
  · exact (putAt_or_eq_append (w := 64) (s.f (n + 1)) (s.f n) rfl).trans (BitVec.cast_eq rfl _)

/-- A value written to a pair: its halves in the two registers by the pair order, and nothing else. -/
theorem State.setPair_advance_spec (s : State) (fd : FReg) (r : Double) :
    (s.setPair fd r).advance.pc = s.pc + 4#32 ∧
      match s.platform.pairOrder with
      | .firstHigh => WritesTwoF s (s.setPair fd r).advance fd (r.extractLsb' 32 32) (r.extractLsb' 0 32)
      | .firstLow  => WritesTwoF s (s.setPair fd r).advance fd (r.extractLsb' 0 32) (r.extractLsb' 32 32) := by
  unfold State.setPair
  cases s.platform.pairOrder <;> exact s.setTwoF_advance_spec fd _ _

/-- A double-precision result: the pair written, or the exception. -/
theorem State.finishDouble_spec (s : State) (fd : FReg) (r : FpResult 64) :
    (∃ v, r = .ok v ∧ s.finishDouble fd r = .next (s.setPair fd v).advance) ∨
      (r = .trap ∧ ∃ t, s.finishDouble fd r = .next t ∧ EntersException s t 15#32) := by
  cases r with
  | ok v => exact .inl ⟨v, rfl, rfl⟩
  | trap => exact .inr ⟨rfl, s.raise_spec .floatingPoint⟩

/-- The sign-extended immediate is the immediate, as a signed number. -/
theorem signExtImm_toInt (imm : Half) : (signExtImm imm).toInt = imm.toInt :=
  BitVec.toInt_signExtend_of_le (by omega)

/-- The zero-extended immediate is the immediate, as an unsigned number. -/
theorem zeroExtImm_toNat (imm : Half) : (zeroExtImm imm).toNat = imm.toNat := by
  simpa [zeroExtImm] using Nat.lt_trans imm.isLt (by decide : 2 ^ 16 < 2 ^ 32)

/-- A branch offset is four times the immediate, as a signed number. -/
theorem branchOffset_toInt (imm : Half) : (branchOffset imm).toInt = imm.toInt * 4 := by
  have h : putAt 18 2 imm = (imm ++ 0#2 : BitVec 18) := by
    simpa [putAt] using putAt_or_eq_append (w := 18) imm 0#2 rfl
  have h2 : (imm ++ 0#2 : BitVec 18).toInt = imm.toInt * 4 := by
    have hi := imm.isLt
    simp only [BitVec.toInt_eq_toNat_bmod, BitVec.toNat_append, Nat.shiftLeft_eq, Int.bmod]
    simp
    split <;> split <;> omega
  rw [branchOffset, BitVec.toInt_signExtend_of_le (by omega), h, h2]

/-- The byte offset of a branch, from the immediate as a signed number of instructions. -/
theorem branchTarget_eq (pc : Word) (imm : Half) :
    branchTarget pc imm = pc + 4#32 + BitVec.ofInt 32 (imm.toInt * 4) := by
  rw [branchTarget, ← branchOffset_toInt, BitVec.ofInt_toInt]

/-- A jump target keeps the region of 2^28 bytes and takes its place in it from the field. -/
theorem jumpTarget_toNat (pc : Word) (target : BitVec 26) :
    (jumpTarget pc target).toNat = pc.toNat / 2 ^ 28 * 2 ^ 28 + target.toNat * 4 := by
  have ht := target.isLt
  have hp := pc.isLt
  have e : jumpTarget pc target = (pc.extractLsb' 28 4 ++ (target ++ 0#2 : BitVec 28) : BitVec 32) := by
    have h1 := putAt_or_eq_append (w := 32) (pc.extractLsb' 28 4) (target ++ 0#2 : BitVec 28) rfl
    rw [jumpTarget]
    refine Eq.trans ?_ h1
    congr 1
    apply BitVec.eq_of_getLsbD_eq
    intro i hi
    simp only [getLsbD_putAt, BitVec.getLsbD_append, hi, Nat.zero_le, Nat.sub_zero]
    by_cases p : i < 2
    · simp [p, show ¬ 2 ≤ i by omega]
    · simp [p, show 2 ≤ i by omega]
  have e2 : (target ++ 0#2 : BitVec 28).toNat = target.toNat * 4 := by
    rw [BitVec.toNat_append, ← Nat.shiftLeft_add_eq_or_of_lt (by decide), Nat.shiftLeft_eq]
    simp
  rw [e, BitVec.toNat_append, e2, BitVec.extractLsb'_toNat, ← Nat.shiftLeft_add_eq_or_of_lt (by omega)]
  simp only [Nat.shiftLeft_eq, Nat.shiftRight_eq_div_pow]
  omega

/-- The amount of a variable shift. -/
theorem shiftAmount_toNat (v : Word) : (shiftAmount v).toNat = v.toNat % 32 := by
  simp [shiftAmount]

/-- What SB stores. -/
theorem lowByte_toNat (v : Word) : (lowByte v).toNat = v.toNat % 2 ^ 8 := by simp [lowByte]

/-- What SH stores. -/
theorem lowHalf_toNat (v : Word) : (lowHalf v).toNat = v.toNat % 2 ^ 16 := by simp [lowHalf]

/-- LUI's value. -/
theorem upperImm_eq (imm : Half) : upperImm imm = (imm ++ 0#16 : BitVec 32) := by
  simpa [upperImm, putAt] using putAt_or_eq_append (w := 32) imm 0#16 rfl

/-- The bytes a store of a word writes are the word's value in the byte order. -/
theorem bytesValue_splitWord (o : ByteOrder) (v : Word) : bytesValue o (splitWord o v) = v.toNat := by
  obtain ⟨b0, b1, b2, b3, hb, hj⟩ := exists_splitWord o v
  rw [hb, bytesValue_word, hj]

/-- The same of a halfword. -/
theorem bytesValue_splitHalf (o : ByteOrder) (v : Half) : bytesValue o (splitHalf o v) = v.toNat := by
  obtain ⟨b0, b1, hb, hj⟩ := exists_splitHalf o v
  rw [hb, bytesValue_half, hj]

/-- When a sum or a difference is out of range. -/
theorem outOfRange_eq_false_iff (n : Int) : outOfRange n = false ↔ -2 ^ 31 ≤ n ∧ n ≤ 2 ^ 31 - 1 := by
  simp [outOfRange]

theorem outOfRange_eq_true_iff (n : Int) : outOfRange n = true ↔ n < -2 ^ 31 ∨ n > 2 ^ 31 - 1 := by
  simp [outOfRange]

end Sys2Proof.Machine
end

