-- ==== Sys2Proof/Laws/Effects.lean ====
section
/-! SUPPORT. Said once: what an instruction that answers a next state can have done. The provers take a case of `Effect`
where they would unfold the 62 meanings. -/

namespace Sys2Proof.Machine

/-- The next states instruction `i` can answer from `s`, by the operation it ends in. -/
inductive Effect (i : Instr) (s : State) : State → Prop where
  /-- An exception of its own. -/
  | exception (e : Exc) (he : e ≠ .illegalOpcode) (ht : i.isTransfer = false) : Effect i s (s.takeException e)
  /-- A result in a general register. -/
  | writeX (rd : Reg) (v : Word) (hd : i.destX = some rd) (ht : i.isTransfer = false) : Effect i s (s.setX rd v).advance
  /-- A result in Hi and Lo. -/
  | writeHiLo (h l : Word) (hi : ∃ rs rt, i = .mult rs rt ∨ i = .multu rs rt ∨ i = .div rs rt ∨ i = .divu rs rt) :
    Effect i s (s.setHiLo h l).advance
  /-- Free values in Hi and Lo. -/
  | openHiLo (hi : ∃ rs rt, i = .mult rs rt ∨ i = .multu rs rt ∨ i = .div rs rt ∨ i = .divu rs rt) :
    Effect i s s.drawHiLo.advance
  /-- A result in one floating-point register. -/
  | writeF (fd : FReg) (v : Word) (hd : i.destF = [fd]) (ht : i.isTransfer = false) : Effect i s (s.setF fd v).advance
  /-- A result in a pair. -/
  | writeTwoF (fd : FReg) (v u : Word) (hd : i.destF = [fd, fd + 1]) (ht : i.isTransfer = false) :
    Effect i s ((s.setF fd v).setF (fd + 1) u).advance
  /-- A coprocessor 0 register written. -/
  | writeCop0 (cd : CReg) (rt : Reg) (c : Cop0Reg) (hi : i = .mtc0 cd rt) (hc : cop0Reg? cd = some c) :
    Effect i s (s.setC0 c (s.x rt)).advance
  /-- Bytes stored at an aligned legal address. -/
  | store (base : Reg) (imm : Half) (n : Nat) (bs : List Byte) (ha : i.storeAccess = some (base, imm, n))
    (hn : bs.length = n) (hl : s.illegalAddress (s.effectiveAddress base imm) n .store = false)
    (ht : i.isTransfer = false) : Effect i s (s.putBytes (s.effectiveAddress base imm) bs).advance
  /-- A branch or a jump without a link; its target is checked to be aligned with `pc` but for JR. -/
  | transfer (a : Word) (ht : i.isTransfer = true)
    (ha : (∃ rs, i = .jr rs) ∨ (s.pc.toNat % 4 = 0 → a.toNat % 4 = 0)) : Effect i s (s.goto a)
  /-- A jump with a link; the target of JALR is any. -/
  | link (rd : Reg) (v a : Word) (hd : i.destX = some rd) (ht : i.isTransfer = true)
    (ha : (∃ rd rs, i = .jalr rd rs) ∨ a.toNat % 4 = 0) : Effect i s ((s.setX rd v).goto a)

theorem Effect.of_finishX {i : Instr} {s t : State} {r : Reg} {v : Word} (hd : i.destX = some r)
    (ht : i.isTransfer = false) (h : s.finishX r v = .next t) : Effect i s t := by
  cases h; exact .writeX r v hd ht

theorem Effect.of_finishChecked {i : Instr} {s t : State} {r : Reg} {o : Bool} {v : Word} (hd : i.destX = some r)
    (ht : i.isTransfer = false) (h : s.finishChecked r o v = .next t) : Effect i s t := by
  cases o
  · exact .of_finishX hd ht h
  · cases h; exact .exception _ (by decide) ht

theorem Effect.of_loadThen {i : Instr} {s t : State} {ea : Word} {n w : Nat} {value : Option (BitVec w)}
    {write : BitVec w → State} (ht : i.isTransfer = false) (hw : ∀ v, Effect i s (write v).advance)
    (h : s.loadThen ea n value write = .next t) : Effect i s t := by
  rcases s.loadThen_cases ea n value write with ⟨_, e⟩ | ⟨_, ⟨v, _, e⟩ | ⟨_, e⟩⟩ <;> rw [e] at h <;> cases h
  · exact .exception _ (by decide) ht
  · exact hw v

theorem Effect.of_store {i : Instr} {s t : State} {base : Reg} {imm : Half} {n : Nat} {bs : List Byte}
    (ha : i.storeAccess = some (base, imm, n)) (hn : bs.length = n) (ht : i.isTransfer = false)
    (h : s.store (s.effectiveAddress base imm) n bs = .next t) : Effect i s t := by
  unfold State.store at h
  split at h <;> cases h
  · exact .exception _ (by decide) ht
  · rename_i hl
    exact .store base imm n bs ha hn (by simpa using hl) ht

theorem aligned_add_four {a : Word} (h : a.toNat % 4 = 0) : (a + 4#32).toNat % 4 = 0 := by
  simp only [BitVec.toNat_add, BitVec.toNat_ofNat]; omega

/-- A branch target is aligned with the branch (44_branch_jump.md R180). -/
theorem branchTarget_aligned {pc : Word} (imm : Half) (h : pc.toNat % 4 = 0) : (branchTarget pc imm).toNat % 4 = 0 := by
  rw [branchTarget_eq]
  simp only [BitVec.toNat_add, BitVec.toNat_ofNat, BitVec.toNat_ofInt]
  omega

/-- A jump target is aligned (44_branch_jump.md R180). -/
theorem jumpTarget_aligned (pc : Word) (target : BitVec 26) : (jumpTarget pc target).toNat % 4 = 0 := by
  rw [jumpTarget_toNat]; omega

theorem Effect.of_branchIf {i : Instr} {s t : State} {taken : Bool} {imm : Half} (ht : i.isTransfer = true)
    (h : s.branchIf taken imm = .next t) : Effect i s t := by
  cases taken <;> cases h
  · exact .transfer _ ht (.inr aligned_add_four)
  · exact .transfer _ ht (.inr (branchTarget_aligned imm))

theorem Effect.of_single {i : Instr} {s t : State} {op : FpOp} {fd fs ft : FReg} (hd : i.destF = [fd])
    (ht : i.isTransfer = false) (h : s.single op fd fs ft = .next t) : Effect i s t := by
  unfold State.single at h
  cases hr : fpArith 32 singleFormat op (s.f fs) (s.f ft) <;> rw [hr] at h <;> cases h
  · exact .writeF _ _ hd ht
  · exact .exception _ (by decide) ht

theorem Effect.of_double {i : Instr} {s t : State} {op : FpOp} {fd fs ft : FReg} (hd : i.destF = [fd, fd + 1])
    (ht : i.isTransfer = false) (h : s.double op fd fs ft = .next t) : Effect i s t := by
  unfold State.double at h
  split at h
  · cases hr : fpArith 64 doubleFormat op (s.pair fs) (s.pair ft) <;> rw [hr] at h <;> cases h
    · unfold State.setPair
      cases s.platform.pairOrder <;> exact .writeTwoF _ _ _ hd ht
    · exact .exception _ (by decide) ht
  · cases h

/-- Every next state of every instruction is one of these. -/
theorem exec_effect {i : Instr} {s t : State} (h : exec i s = .next t) : Effect i s t := by
  cases i with
  | add rd rs rt => exact .of_finishChecked rfl rfl h
  | addu rd rs rt => exact .of_finishX rfl rfl h
  | sub rd rs rt => exact .of_finishChecked rfl rfl h
  | subu rd rs rt => exact .of_finishX rfl rfl h
  | mult rs rt => cases h; exact .writeHiLo _ _ ⟨rs, rt, by simp⟩
  | multu rs rt => cases h; exact .writeHiLo _ _ ⟨rs, rt, by simp⟩
  | div rs rt =>
    rw [exec_div] at h
    simp only [execDiv] at h
    split at h <;> cases h
    · exact .openHiLo ⟨rs, rt, by simp⟩
    · exact .writeHiLo _ _ ⟨rs, rt, by simp⟩
  | divu rs rt =>
    rw [exec_divu] at h
    simp only [execDivu] at h
    split at h <;> cases h
    · exact .openHiLo ⟨rs, rt, by simp⟩
    · exact .writeHiLo _ _ ⟨rs, rt, by simp⟩
  | slt rd rs rt => exact .of_finishX rfl rfl h
  | sltu rd rs rt => exact .of_finishX rfl rfl h
  | and rd rs rt => exact .of_finishX rfl rfl h
  | or rd rs rt => exact .of_finishX rfl rfl h
  | nor rd rs rt => exact .of_finishX rfl rfl h
  | xor rd rs rt => exact .of_finishX rfl rfl h
  | addi rt rs imm => exact .of_finishChecked rfl rfl h
  | addiu rt rs imm => exact .of_finishX rfl rfl h
  | slti rt rs imm => exact .of_finishX rfl rfl h
  | sltiu rt rs imm => exact .of_finishX rfl rfl h
  | andi rt rs imm => exact .of_finishX rfl rfl h
  | ori rt rs imm => exact .of_finishX rfl rfl h
  | xori rt rs imm => exact .of_finishX rfl rfl h
  | sll rd rt sa => exact .of_finishX rfl rfl h
  | sllv rd rt rs => exact .of_finishX rfl rfl h
  | srl rd rt sa => exact .of_finishX rfl rfl h
  | srlv rd rt rs => exact .of_finishX rfl rfl h
  | sra rd rt sa => exact .of_finishX rfl rfl h
  | srav rd rt rs => exact .of_finishX rfl rfl h
  | lw rt imm rs => exact .of_loadThen rfl (fun v => .writeX rt _ rfl rfl) h
  | sw rt imm rs => exact .of_store rfl (by simp) rfl h
  | lbu rt imm rs => exact .of_loadThen rfl (fun v => .writeX rt _ rfl rfl) h
  | lb rt imm rs => exact .of_loadThen rfl (fun v => .writeX rt _ rfl rfl) h
  | lhu rt imm rs => exact .of_loadThen rfl (fun v => .writeX rt _ rfl rfl) h
  | lh rt imm rs => exact .of_loadThen rfl (fun v => .writeX rt _ rfl rfl) h
  | sb rt imm rs => exact .of_store rfl rfl rfl h
  | sh rt imm rs => exact .of_store rfl (by simp) rfl h
  | lwc1 ft imm rs => exact .of_loadThen rfl (fun v => .writeF ft _ rfl rfl) h
  | swc1 ft imm rs => exact .of_store rfl (by simp) rfl h
  | lui rt imm => exact .of_finishX rfl rfl h
  | beq rs rt imm => exact .of_branchIf rfl h
  | bne rs rt imm => exact .of_branchIf rfl h
  | blez rs imm => exact .of_branchIf rfl h
  | bgtz rs imm => exact .of_branchIf rfl h
  | bltz rs imm => exact .of_branchIf rfl h
  | j target => cases h; exact .transfer _ rfl (.inr fun _ => jumpTarget_aligned _ _)
  | jal target => cases h; exact .link 31 _ _ rfl rfl (.inr (jumpTarget_aligned _ _))
  | jr rs => cases h; exact .transfer _ rfl (.inl ⟨rs, rfl⟩)
  | jalr rd rs => cases h; exact .link rd _ _ rfl rfl (.inl ⟨rd, rs, rfl⟩)
  | mfhi rd => exact .of_finishX rfl rfl h
  | mflo rd => exact .of_finishX rfl rfl h
  | mfc0 rt cd =>
    rw [exec_mfc0] at h
    unfold execMfc0 at h
    rcases s.cop0Then_cases cd _ with ⟨_, e⟩ | ⟨r, _, _, e⟩ | ⟨r, hr, _, e⟩ <;> rw [e] at h <;> cases h
    exact .writeX rt _ rfl rfl
  | mtc0 cd rt =>
    rw [exec_mtc0] at h
    unfold execMtc0 at h
    rcases s.cop0Then_cases cd _ with ⟨_, e⟩ | ⟨r, _, _, e⟩ | ⟨r, hr, _, e⟩ <;> rw [e] at h <;> cases h
    exact .writeCop0 cd rt r rfl hr
  | addS fd fs ft => exact .of_single rfl rfl h
  | addD fd fs ft => exact .of_double rfl rfl h
  | subS fd fs ft => exact .of_single rfl rfl h
  | subD fd fs ft => exact .of_double rfl rfl h
  | mulS fd fs ft => exact .of_single rfl rfl h
  | mulD fd fs ft => exact .of_double rfl rfl h
  | divS fd fs ft => exact .of_single rfl rfl h
  | divD fd fs ft => exact .of_double rfl rfl h
  | movS fd fs => cases h; exact .writeF fd _ rfl rfl
  | movD fd fs =>
    rw [exec_movD] at h
    unfold execMovD at h
    split at h <;> cases h
    exact .writeTwoF fd _ _ rfl rfl
  | syscall => cases h; exact .exception _ (by decide) rfl

end Sys2Proof.Machine
end

