-- ==== Sys2Proof/Laws/PerInstr.lean ====
section
/-! SUPPORT. What is said of every instruction, one lemma per constructor: its encoding matches its row of the opcode
table. -/

namespace Sys2Proof.Laws

/-- The word the encoder writes for `i` matches the row of spec/opcode_table.json that `i` stands for. -/
def EncodesItsRow.Statement (i : Instr) : Prop := encode i &&& i.row.1 = i.row.2

/-- A field the mask leaves free matches, whatever it holds. -/
theorem free_field {w : Nat} {v m p : BitVec w} (h : m = 0#w ∧ p = 0#w) : v &&& m = p := by
  rw [h.1, h.2, BitVec.and_zero]

/-- A word of the R-type layout matches a row if its fields do. -/
theorem rType_matches {rs rt rd sa : BitVec 5} {funct : BitVec 6} {m p : Word}
    (h1 : 0b000000#6 &&& opField m = opField p) (h2 : rs &&& rsField m = rsField p) (h3 : rt &&& rtField m = rtField p)
    (h4 : rd &&& rdField m = rdField p) (h5 : sa &&& saField m = saField p) (h6 : funct &&& functField m = functField p) :
    rType rs rt rd sa funct &&& m = p :=
  and_eq_of_fields (by simpa using h1) (by simpa using h2) (by simpa using h3) (by simpa using h4) (by simpa using h5)
    (by simpa using h6)

/-- A word of the floating-point layout matches a row if its fields do. -/
theorem fpType_matches {fmt ft fs fd : BitVec 5} {funct : BitVec 6} {m p : Word}
    (h1 : 0b010001#6 &&& opField m = opField p) (h2 : fmt &&& rsField m = rsField p) (h3 : ft &&& rtField m = rtField p)
    (h4 : fs &&& rdField m = rdField p) (h5 : fd &&& saField m = saField p) (h6 : funct &&& functField m = functField p) :
    fpType fmt ft fs fd funct &&& m = p :=
  and_eq_of_fields (by simpa using h1) (by simpa using h2) (by simpa using h3) (by simpa using h4) (by simpa using h5)
    (by simpa using h6)

/-- A word of the coprocessor 0 layout matches a row if its fields do. -/
theorem cop0Type_matches {selector rt cd : BitVec 5} {m p : Word}
    (h1 : 0b010000#6 &&& opField m = opField p) (h2 : selector &&& rsField m = rsField p) (h3 : rt &&& rtField m = rtField p)
    (h4 : cd &&& rdField m = rdField p) (h5 : 0#5 &&& saField m = saField p) (h6 : 0#6 &&& functField m = functField p) :
    cop0Type selector rt cd &&& m = p :=
  and_eq_of_fields (by simpa using h1) (by simpa using h2) (by simpa using h3) (by simpa using h4) (by simpa using h5)
    (by simpa using h6)

/-- A word of the I-type layout matches a row that leaves the immediate free, if its other fields do. -/
theorem iType_matches {op : BitVec 6} {rs rt : BitVec 5} {imm : Half} {m p : Word}
    (h1 : op &&& opField m = opField p) (h2 : rs &&& rsField m = rsField p) (h3 : rt &&& rtField m = rtField p)
    (h4 : (rdField m, rdField p) = (0#5, 0#5)) (h5 : (saField m, saField p) = (0#5, 0#5))
    (h6 : (functField m, functField p) = (0#6, 0#6)) : iType op rs rt imm &&& m = p := by
  obtain ⟨a4, b4⟩ := Prod.mk.inj h4
  obtain ⟨a5, b5⟩ := Prod.mk.inj h5
  obtain ⟨a6, b6⟩ := Prod.mk.inj h6
  exact and_eq_of_fields (by simpa using h1) (by simpa using h2) (by simpa using h3) (by simp [a4, b4])
    (by simp [a5, b5]) (by simp [a6, b6])

/-- A jump matches a row that leaves the target free, if its op-code does. -/
theorem jType_matches {op : BitVec 6} {target : BitVec 26} {m p : Word} (h1 : op &&& opField m = opField p)
    (h2 : (rsField m, rsField p) = (0#5, 0#5)) (h3 : (rtField m, rtField p) = (0#5, 0#5))
    (h4 : (rdField m, rdField p) = (0#5, 0#5)) (h5 : (saField m, saField p) = (0#5, 0#5))
    (h6 : (functField m, functField p) = (0#6, 0#6)) : jType op target &&& m = p := by
  obtain ⟨a2, b2⟩ := Prod.mk.inj h2
  obtain ⟨a3, b3⟩ := Prod.mk.inj h3
  obtain ⟨a4, b4⟩ := Prod.mk.inj h4
  obtain ⟨a5, b5⟩ := Prod.mk.inj h5
  obtain ⟨a6, b6⟩ := Prod.mk.inj h6
  exact and_eq_of_fields (by simpa using h1) (by simp [a2, b2]) (by simp [a3, b3]) (by simp [a4, b4])
    (by simp [a5, b5]) (by simp [a6, b6])

theorem EncodesItsRow.add (rd rs rt : Reg) : EncodesItsRow.Statement (.add rd rs rt) :=
  rType_matches (m := 0xFC0007FF#32) (p := 0x00000020#32)
    (by decide) (free_field (by decide)) (free_field (by decide)) (free_field (by decide)) (by decide) (by decide)

theorem EncodesItsRow.addu (rd rs rt : Reg) : EncodesItsRow.Statement (.addu rd rs rt) :=
  rType_matches (m := 0xFC0007FF#32) (p := 0x00000021#32)
    (by decide) (free_field (by decide)) (free_field (by decide)) (free_field (by decide)) (by decide) (by decide)

theorem EncodesItsRow.sub (rd rs rt : Reg) : EncodesItsRow.Statement (.sub rd rs rt) :=
  rType_matches (m := 0xFC0007FF#32) (p := 0x00000022#32)
    (by decide) (free_field (by decide)) (free_field (by decide)) (free_field (by decide)) (by decide) (by decide)

theorem EncodesItsRow.subu (rd rs rt : Reg) : EncodesItsRow.Statement (.subu rd rs rt) :=
  rType_matches (m := 0xFC0007FF#32) (p := 0x00000023#32)
    (by decide) (free_field (by decide)) (free_field (by decide)) (free_field (by decide)) (by decide) (by decide)

theorem EncodesItsRow.mult (rs rt : Reg) : EncodesItsRow.Statement (.mult rs rt) :=
  rType_matches (m := 0xFC00FFFF#32) (p := 0x00000018#32)
    (by decide) (free_field (by decide)) (free_field (by decide)) (by decide) (by decide) (by decide)

theorem EncodesItsRow.multu (rs rt : Reg) : EncodesItsRow.Statement (.multu rs rt) :=
  rType_matches (m := 0xFC00FFFF#32) (p := 0x00000019#32)
    (by decide) (free_field (by decide)) (free_field (by decide)) (by decide) (by decide) (by decide)

theorem EncodesItsRow.div (rs rt : Reg) : EncodesItsRow.Statement (.div rs rt) :=
  rType_matches (m := 0xFC00FFFF#32) (p := 0x0000001A#32)
    (by decide) (free_field (by decide)) (free_field (by decide)) (by decide) (by decide) (by decide)

theorem EncodesItsRow.divu (rs rt : Reg) : EncodesItsRow.Statement (.divu rs rt) :=
  rType_matches (m := 0xFC00FFFF#32) (p := 0x0000001B#32)
    (by decide) (free_field (by decide)) (free_field (by decide)) (by decide) (by decide) (by decide)

theorem EncodesItsRow.slt (rd rs rt : Reg) : EncodesItsRow.Statement (.slt rd rs rt) :=
  rType_matches (m := 0xFC0007FF#32) (p := 0x0000002A#32)
    (by decide) (free_field (by decide)) (free_field (by decide)) (free_field (by decide)) (by decide) (by decide)

theorem EncodesItsRow.sltu (rd rs rt : Reg) : EncodesItsRow.Statement (.sltu rd rs rt) :=
  rType_matches (m := 0xFC0007FF#32) (p := 0x0000002B#32)
    (by decide) (free_field (by decide)) (free_field (by decide)) (free_field (by decide)) (by decide) (by decide)

theorem EncodesItsRow.and (rd rs rt : Reg) : EncodesItsRow.Statement (.and rd rs rt) :=
  rType_matches (m := 0xFC0007FF#32) (p := 0x00000024#32)
    (by decide) (free_field (by decide)) (free_field (by decide)) (free_field (by decide)) (by decide) (by decide)

theorem EncodesItsRow.or (rd rs rt : Reg) : EncodesItsRow.Statement (.or rd rs rt) :=
  rType_matches (m := 0xFC0007FF#32) (p := 0x00000025#32)
    (by decide) (free_field (by decide)) (free_field (by decide)) (free_field (by decide)) (by decide) (by decide)

theorem EncodesItsRow.nor (rd rs rt : Reg) : EncodesItsRow.Statement (.nor rd rs rt) :=
  rType_matches (m := 0xFC0007FF#32) (p := 0x00000027#32)
    (by decide) (free_field (by decide)) (free_field (by decide)) (free_field (by decide)) (by decide) (by decide)

theorem EncodesItsRow.xor (rd rs rt : Reg) : EncodesItsRow.Statement (.xor rd rs rt) :=
  rType_matches (m := 0xFC0007FF#32) (p := 0x00000026#32)
    (by decide) (free_field (by decide)) (free_field (by decide)) (free_field (by decide)) (by decide) (by decide)

theorem EncodesItsRow.addi (rt rs : Reg) (imm : Half) : EncodesItsRow.Statement (.addi rt rs imm) :=
  iType_matches (m := 0xFC000000#32) (p := 0x20000000#32)
    (by decide) (free_field (by decide)) (free_field (by decide)) (by decide) (by decide) (by decide)

theorem EncodesItsRow.addiu (rt rs : Reg) (imm : Half) : EncodesItsRow.Statement (.addiu rt rs imm) :=
  iType_matches (m := 0xFC000000#32) (p := 0x24000000#32)
    (by decide) (free_field (by decide)) (free_field (by decide)) (by decide) (by decide) (by decide)

theorem EncodesItsRow.slti (rt rs : Reg) (imm : Half) : EncodesItsRow.Statement (.slti rt rs imm) :=
  iType_matches (m := 0xFC000000#32) (p := 0x28000000#32)
    (by decide) (free_field (by decide)) (free_field (by decide)) (by decide) (by decide) (by decide)

theorem EncodesItsRow.sltiu (rt rs : Reg) (imm : Half) : EncodesItsRow.Statement (.sltiu rt rs imm) :=
  iType_matches (m := 0xFC000000#32) (p := 0x2C000000#32)
    (by decide) (free_field (by decide)) (free_field (by decide)) (by decide) (by decide) (by decide)

theorem EncodesItsRow.andi (rt rs : Reg) (imm : Half) : EncodesItsRow.Statement (.andi rt rs imm) :=
  iType_matches (m := 0xFC000000#32) (p := 0x30000000#32)
    (by decide) (free_field (by decide)) (free_field (by decide)) (by decide) (by decide) (by decide)

theorem EncodesItsRow.ori (rt rs : Reg) (imm : Half) : EncodesItsRow.Statement (.ori rt rs imm) :=
  iType_matches (m := 0xFC000000#32) (p := 0x34000000#32)
    (by decide) (free_field (by decide)) (free_field (by decide)) (by decide) (by decide) (by decide)

theorem EncodesItsRow.xori (rt rs : Reg) (imm : Half) : EncodesItsRow.Statement (.xori rt rs imm) :=
  iType_matches (m := 0xFC000000#32) (p := 0x38000000#32)
    (by decide) (free_field (by decide)) (free_field (by decide)) (by decide) (by decide) (by decide)

theorem EncodesItsRow.sll (rd rt : Reg) (sa : BitVec 5) : EncodesItsRow.Statement (.sll rd rt sa) :=
  rType_matches (m := 0xFFE0003F#32) (p := 0x00000000#32)
    (by decide) (by decide) (free_field (by decide)) (free_field (by decide)) (free_field (by decide)) (by decide)

theorem EncodesItsRow.sllv (rd rt rs : Reg) : EncodesItsRow.Statement (.sllv rd rt rs) :=
  rType_matches (m := 0xFC0007FF#32) (p := 0x00000004#32)
    (by decide) (free_field (by decide)) (free_field (by decide)) (free_field (by decide)) (by decide) (by decide)

theorem EncodesItsRow.srl (rd rt : Reg) (sa : BitVec 5) : EncodesItsRow.Statement (.srl rd rt sa) :=
  rType_matches (m := 0xFFE0003F#32) (p := 0x00000002#32)
    (by decide) (by decide) (free_field (by decide)) (free_field (by decide)) (free_field (by decide)) (by decide)

theorem EncodesItsRow.srlv (rd rt rs : Reg) : EncodesItsRow.Statement (.srlv rd rt rs) :=
  rType_matches (m := 0xFC0007FF#32) (p := 0x00000006#32)
    (by decide) (free_field (by decide)) (free_field (by decide)) (free_field (by decide)) (by decide) (by decide)

theorem EncodesItsRow.sra (rd rt : Reg) (sa : BitVec 5) : EncodesItsRow.Statement (.sra rd rt sa) :=
  rType_matches (m := 0xFFE0003F#32) (p := 0x00000003#32)
    (by decide) (by decide) (free_field (by decide)) (free_field (by decide)) (free_field (by decide)) (by decide)

theorem EncodesItsRow.srav (rd rt rs : Reg) : EncodesItsRow.Statement (.srav rd rt rs) :=
  rType_matches (m := 0xFC0007FF#32) (p := 0x00000007#32)
    (by decide) (free_field (by decide)) (free_field (by decide)) (free_field (by decide)) (by decide) (by decide)

theorem EncodesItsRow.lw (rt : Reg) (imm : Half) (rs : Reg) : EncodesItsRow.Statement (.lw rt imm rs) :=
  iType_matches (m := 0xFC000000#32) (p := 0x8C000000#32)
    (by decide) (free_field (by decide)) (free_field (by decide)) (by decide) (by decide) (by decide)

theorem EncodesItsRow.sw (rt : Reg) (imm : Half) (rs : Reg) : EncodesItsRow.Statement (.sw rt imm rs) :=
  iType_matches (m := 0xFC000000#32) (p := 0xAC000000#32)
    (by decide) (free_field (by decide)) (free_field (by decide)) (by decide) (by decide) (by decide)

theorem EncodesItsRow.lbu (rt : Reg) (imm : Half) (rs : Reg) : EncodesItsRow.Statement (.lbu rt imm rs) :=
  iType_matches (m := 0xFC000000#32) (p := 0x90000000#32)
    (by decide) (free_field (by decide)) (free_field (by decide)) (by decide) (by decide) (by decide)

theorem EncodesItsRow.lb (rt : Reg) (imm : Half) (rs : Reg) : EncodesItsRow.Statement (.lb rt imm rs) :=
  iType_matches (m := 0xFC000000#32) (p := 0x80000000#32)
    (by decide) (free_field (by decide)) (free_field (by decide)) (by decide) (by decide) (by decide)

theorem EncodesItsRow.lhu (rt : Reg) (imm : Half) (rs : Reg) : EncodesItsRow.Statement (.lhu rt imm rs) :=
  iType_matches (m := 0xFC000000#32) (p := 0x94000000#32)
    (by decide) (free_field (by decide)) (free_field (by decide)) (by decide) (by decide) (by decide)

theorem EncodesItsRow.lh (rt : Reg) (imm : Half) (rs : Reg) : EncodesItsRow.Statement (.lh rt imm rs) :=
  iType_matches (m := 0xFC000000#32) (p := 0x84000000#32)
    (by decide) (free_field (by decide)) (free_field (by decide)) (by decide) (by decide) (by decide)

theorem EncodesItsRow.sb (rt : Reg) (imm : Half) (rs : Reg) : EncodesItsRow.Statement (.sb rt imm rs) :=
  iType_matches (m := 0xFC000000#32) (p := 0xA0000000#32)
    (by decide) (free_field (by decide)) (free_field (by decide)) (by decide) (by decide) (by decide)

theorem EncodesItsRow.sh (rt : Reg) (imm : Half) (rs : Reg) : EncodesItsRow.Statement (.sh rt imm rs) :=
  iType_matches (m := 0xFC000000#32) (p := 0xA4000000#32)
    (by decide) (free_field (by decide)) (free_field (by decide)) (by decide) (by decide) (by decide)

theorem EncodesItsRow.lwc1 (ft : FReg) (imm : Half) (rs : Reg) : EncodesItsRow.Statement (.lwc1 ft imm rs) :=
  iType_matches (m := 0xFC000000#32) (p := 0xC4000000#32)
    (by decide) (free_field (by decide)) (free_field (by decide)) (by decide) (by decide) (by decide)

theorem EncodesItsRow.swc1 (ft : FReg) (imm : Half) (rs : Reg) : EncodesItsRow.Statement (.swc1 ft imm rs) :=
  iType_matches (m := 0xFC000000#32) (p := 0xE4000000#32)
    (by decide) (free_field (by decide)) (free_field (by decide)) (by decide) (by decide) (by decide)

theorem EncodesItsRow.lui (rt : Reg) (imm : Half) : EncodesItsRow.Statement (.lui rt imm) :=
  iType_matches (m := 0xFFE00000#32) (p := 0x3C000000#32)
    (by decide) (by decide) (free_field (by decide)) (by decide) (by decide) (by decide)

theorem EncodesItsRow.beq (rs rt : Reg) (imm : Half) : EncodesItsRow.Statement (.beq rs rt imm) :=
  iType_matches (m := 0xFC000000#32) (p := 0x10000000#32)
    (by decide) (free_field (by decide)) (free_field (by decide)) (by decide) (by decide) (by decide)

theorem EncodesItsRow.bne (rs rt : Reg) (imm : Half) : EncodesItsRow.Statement (.bne rs rt imm) :=
  iType_matches (m := 0xFC000000#32) (p := 0x14000000#32)
    (by decide) (free_field (by decide)) (free_field (by decide)) (by decide) (by decide) (by decide)

theorem EncodesItsRow.blez (rs : Reg) (imm : Half) : EncodesItsRow.Statement (.blez rs imm) :=
  iType_matches (m := 0xFC1F0000#32) (p := 0x18000000#32)
    (by decide) (free_field (by decide)) (by decide) (by decide) (by decide) (by decide)

theorem EncodesItsRow.bgtz (rs : Reg) (imm : Half) : EncodesItsRow.Statement (.bgtz rs imm) :=
  iType_matches (m := 0xFC1F0000#32) (p := 0x1C000000#32)
    (by decide) (free_field (by decide)) (by decide) (by decide) (by decide) (by decide)

theorem EncodesItsRow.bltz (rs : Reg) (imm : Half) : EncodesItsRow.Statement (.bltz rs imm) :=
  iType_matches (m := 0xFC1F0000#32) (p := 0x04000000#32)
    (by decide) (free_field (by decide)) (by decide) (by decide) (by decide) (by decide)

theorem EncodesItsRow.j (target : BitVec 26) : EncodesItsRow.Statement (.j target) :=
  jType_matches (m := 0xFC000000#32) (p := 0x08000000#32)
    (by decide) (by decide) (by decide) (by decide) (by decide) (by decide)

theorem EncodesItsRow.jal (target : BitVec 26) : EncodesItsRow.Statement (.jal target) :=
  jType_matches (m := 0xFC000000#32) (p := 0x0C000000#32)
    (by decide) (by decide) (by decide) (by decide) (by decide) (by decide)

theorem EncodesItsRow.jr (rs : Reg) : EncodesItsRow.Statement (.jr rs) :=
  rType_matches (m := 0xFC1FFFFF#32) (p := 0x00000008#32)
    (by decide) (free_field (by decide)) (by decide) (by decide) (by decide) (by decide)

theorem EncodesItsRow.jalr (rd rs : Reg) : EncodesItsRow.Statement (.jalr rd rs) :=
  rType_matches (m := 0xFC1F07FF#32) (p := 0x00000009#32)
    (by decide) (free_field (by decide)) (by decide) (free_field (by decide)) (by decide) (by decide)

theorem EncodesItsRow.mfhi (rd : Reg) : EncodesItsRow.Statement (.mfhi rd) :=
  rType_matches (m := 0xFFFF07FF#32) (p := 0x00000010#32)
    (by decide) (by decide) (by decide) (free_field (by decide)) (by decide) (by decide)

theorem EncodesItsRow.mflo (rd : Reg) : EncodesItsRow.Statement (.mflo rd) :=
  rType_matches (m := 0xFFFF07FF#32) (p := 0x00000012#32)
    (by decide) (by decide) (by decide) (free_field (by decide)) (by decide) (by decide)

theorem EncodesItsRow.mfc0 (rt : Reg) (cd : CReg) : EncodesItsRow.Statement (.mfc0 rt cd) :=
  cop0Type_matches (m := 0xFFE007FF#32) (p := 0x40000000#32)
    (by decide) (by decide) (free_field (by decide)) (free_field (by decide)) (by decide) (by decide)

theorem EncodesItsRow.mtc0 (cd : CReg) (rt : Reg) : EncodesItsRow.Statement (.mtc0 cd rt) :=
  cop0Type_matches (m := 0xFFE007FF#32) (p := 0x40800000#32)
    (by decide) (by decide) (free_field (by decide)) (free_field (by decide)) (by decide) (by decide)

theorem EncodesItsRow.addS (fd fs ft : FReg) : EncodesItsRow.Statement (.addS fd fs ft) :=
  fpType_matches (m := 0xFFE0003F#32) (p := 0x44000000#32)
    (by decide) (by decide) (free_field (by decide)) (free_field (by decide)) (free_field (by decide)) (by decide)

theorem EncodesItsRow.addD (fd fs ft : FReg) : EncodesItsRow.Statement (.addD fd fs ft) :=
  fpType_matches (m := 0xFFE0003F#32) (p := 0x44200000#32)
    (by decide) (by decide) (free_field (by decide)) (free_field (by decide)) (free_field (by decide)) (by decide)

theorem EncodesItsRow.subS (fd fs ft : FReg) : EncodesItsRow.Statement (.subS fd fs ft) :=
  fpType_matches (m := 0xFFE0003F#32) (p := 0x44000001#32)
    (by decide) (by decide) (free_field (by decide)) (free_field (by decide)) (free_field (by decide)) (by decide)

theorem EncodesItsRow.subD (fd fs ft : FReg) : EncodesItsRow.Statement (.subD fd fs ft) :=
  fpType_matches (m := 0xFFE0003F#32) (p := 0x44200001#32)
    (by decide) (by decide) (free_field (by decide)) (free_field (by decide)) (free_field (by decide)) (by decide)

theorem EncodesItsRow.mulS (fd fs ft : FReg) : EncodesItsRow.Statement (.mulS fd fs ft) :=
  fpType_matches (m := 0xFFE0003F#32) (p := 0x44000002#32)
    (by decide) (by decide) (free_field (by decide)) (free_field (by decide)) (free_field (by decide)) (by decide)

theorem EncodesItsRow.mulD (fd fs ft : FReg) : EncodesItsRow.Statement (.mulD fd fs ft) :=
  fpType_matches (m := 0xFFE0003F#32) (p := 0x44200002#32)
    (by decide) (by decide) (free_field (by decide)) (free_field (by decide)) (free_field (by decide)) (by decide)

theorem EncodesItsRow.divS (fd fs ft : FReg) : EncodesItsRow.Statement (.divS fd fs ft) :=
  fpType_matches (m := 0xFFE0003F#32) (p := 0x44000003#32)
    (by decide) (by decide) (free_field (by decide)) (free_field (by decide)) (free_field (by decide)) (by decide)

theorem EncodesItsRow.divD (fd fs ft : FReg) : EncodesItsRow.Statement (.divD fd fs ft) :=
  fpType_matches (m := 0xFFE0003F#32) (p := 0x44200003#32)
    (by decide) (by decide) (free_field (by decide)) (free_field (by decide)) (free_field (by decide)) (by decide)

theorem EncodesItsRow.movS (fd fs : FReg) : EncodesItsRow.Statement (.movS fd fs) :=
  fpType_matches (m := 0xFFFF003F#32) (p := 0x44000006#32)
    (by decide) (by decide) (by decide) (free_field (by decide)) (free_field (by decide)) (by decide)

theorem EncodesItsRow.movD (fd fs : FReg) : EncodesItsRow.Statement (.movD fd fs) :=
  fpType_matches (m := 0xFFFF003F#32) (p := 0x44200006#32)
    (by decide) (by decide) (by decide) (free_field (by decide)) (free_field (by decide)) (by decide)

theorem EncodesItsRow.syscall : EncodesItsRow.Statement (.syscall) :=
  rType_matches (m := 0xFC00003F#32) (p := 0x0000000C#32)
    (by decide) (free_field (by decide)) (free_field (by decide)) (free_field (by decide)) (free_field (by decide)) (by decide)

end Sys2Proof.Laws
end

