-- ==== Sys2Proof/Tests/Slice0.lean ====
section
/-! SUPPORT. Tests: the words of the spec's examples decode and encode; one step of each instruction on the example of
its rule; ill-formed terms; and a witness for each obligation that has hypotheses. Expected values are the spec's. -/

namespace Sys2Proof.Tests

set_option Elab.async false

open Machine

-- Decoding: the example word of each rule, written out from the encoding of spec/opcode_table.json and the operands of
-- the rule's example.

/-- ADD, R111. -/
theorem test_decode_add : (0b000000#6 ++ 1#5 ++ 2#5 ++ 3#5 ++ 0b00000#5 ++ 0b100000#6 : Word) = 0x00221820#32 ∧
    decodeWord 0x00221820#32 = .ok (.add 3 1 2) ∧ encode (.add 3 1 2) = 0x00221820#32 := by decide

/-- ADDU, R112. -/
theorem test_decode_addu : (0b000000#6 ++ 1#5 ++ 2#5 ++ 3#5 ++ 0b00000#5 ++ 0b100001#6 : Word) = 0x00221821#32 ∧
    decodeWord 0x00221821#32 = .ok (.addu 3 1 2) ∧ encode (.addu 3 1 2) = 0x00221821#32 := by decide

/-- SUB, R113. -/
theorem test_decode_sub : (0b000000#6 ++ 1#5 ++ 2#5 ++ 3#5 ++ 0b00000#5 ++ 0b100010#6 : Word) = 0x00221822#32 ∧
    decodeWord 0x00221822#32 = .ok (.sub 3 1 2) ∧ encode (.sub 3 1 2) = 0x00221822#32 := by decide

/-- SUBU, R114. -/
theorem test_decode_subu : (0b000000#6 ++ 1#5 ++ 2#5 ++ 3#5 ++ 0b00000#5 ++ 0b100011#6 : Word) = 0x00221823#32 ∧
    decodeWord 0x00221823#32 = .ok (.subu 3 1 2) ∧ encode (.subu 3 1 2) = 0x00221823#32 := by decide

/-- MULT, R115. -/
theorem test_decode_mult : (0b000000#6 ++ 1#5 ++ 2#5 ++ 0b00000#5 ++ 0b00000#5 ++ 0b011000#6 : Word) = 0x00220018#32 ∧
    decodeWord 0x00220018#32 = .ok (.mult 1 2) ∧ encode (.mult 1 2) = 0x00220018#32 := by decide

/-- MULTU, R116. -/
theorem test_decode_multu : (0b000000#6 ++ 1#5 ++ 2#5 ++ 0b00000#5 ++ 0b00000#5 ++ 0b011001#6 : Word) = 0x00220019#32 ∧
    decodeWord 0x00220019#32 = .ok (.multu 1 2) ∧ encode (.multu 1 2) = 0x00220019#32 := by decide

/-- DIV, R117. -/
theorem test_decode_div : (0b000000#6 ++ 1#5 ++ 2#5 ++ 0b00000#5 ++ 0b00000#5 ++ 0b011010#6 : Word) = 0x0022001A#32 ∧
    decodeWord 0x0022001A#32 = .ok (.div 1 2) ∧ encode (.div 1 2) = 0x0022001A#32 := by decide

/-- DIVU, R118. -/
theorem test_decode_divu : (0b000000#6 ++ 1#5 ++ 2#5 ++ 0b00000#5 ++ 0b00000#5 ++ 0b011011#6 : Word) = 0x0022001B#32 ∧
    decodeWord 0x0022001B#32 = .ok (.divu 1 2) ∧ encode (.divu 1 2) = 0x0022001B#32 := by decide

/-- SLT, R119. -/
theorem test_decode_slt : (0b000000#6 ++ 1#5 ++ 2#5 ++ 3#5 ++ 0b00000#5 ++ 0b101010#6 : Word) = 0x0022182A#32 ∧
    decodeWord 0x0022182A#32 = .ok (.slt 3 1 2) ∧ encode (.slt 3 1 2) = 0x0022182A#32 := by decide

/-- SLTU, R120. -/
theorem test_decode_sltu : (0b000000#6 ++ 1#5 ++ 2#5 ++ 3#5 ++ 0b00000#5 ++ 0b101011#6 : Word) = 0x0022182B#32 ∧
    decodeWord 0x0022182B#32 = .ok (.sltu 3 1 2) ∧ encode (.sltu 3 1 2) = 0x0022182B#32 := by decide

/-- AND, R121. -/
theorem test_decode_and : (0b000000#6 ++ 1#5 ++ 2#5 ++ 3#5 ++ 0b00000#5 ++ 0b100100#6 : Word) = 0x00221824#32 ∧
    decodeWord 0x00221824#32 = .ok (.and 3 1 2) ∧ encode (.and 3 1 2) = 0x00221824#32 := by decide

/-- OR, R122. -/
theorem test_decode_or : (0b000000#6 ++ 1#5 ++ 2#5 ++ 3#5 ++ 0b00000#5 ++ 0b100101#6 : Word) = 0x00221825#32 ∧
    decodeWord 0x00221825#32 = .ok (.or 3 1 2) ∧ encode (.or 3 1 2) = 0x00221825#32 := by decide

/-- NOR, R123. -/
theorem test_decode_nor : (0b000000#6 ++ 1#5 ++ 2#5 ++ 3#5 ++ 0b00000#5 ++ 0b100111#6 : Word) = 0x00221827#32 ∧
    decodeWord 0x00221827#32 = .ok (.nor 3 1 2) ∧ encode (.nor 3 1 2) = 0x00221827#32 := by decide

/-- XOR, R124. -/
theorem test_decode_xor : (0b000000#6 ++ 1#5 ++ 2#5 ++ 3#5 ++ 0b00000#5 ++ 0b100110#6 : Word) = 0x00221826#32 ∧
    decodeWord 0x00221826#32 = .ok (.xor 3 1 2) ∧ encode (.xor 3 1 2) = 0x00221826#32 := by decide

/-- ADDI, R131. -/
theorem test_decode_addi : (0b001000#6 ++ 1#5 ++ 2#5 ++ 0xFFFF#16 : Word) = 0x2022FFFF#32 ∧
    decodeWord 0x2022FFFF#32 = .ok (.addi 2 1 0xFFFF#16) ∧ encode (.addi 2 1 0xFFFF#16) = 0x2022FFFF#32 := by decide

/-- ADDIU, R132. -/
theorem test_decode_addiu : (0b001001#6 ++ 1#5 ++ 2#5 ++ 0xFFFF#16 : Word) = 0x2422FFFF#32 ∧
    decodeWord 0x2422FFFF#32 = .ok (.addiu 2 1 0xFFFF#16) ∧ encode (.addiu 2 1 0xFFFF#16) = 0x2422FFFF#32 := by decide

/-- SLTI, R133. -/
theorem test_decode_slti : (0b001010#6 ++ 1#5 ++ 2#5 ++ 0xFFFF#16 : Word) = 0x2822FFFF#32 ∧
    decodeWord 0x2822FFFF#32 = .ok (.slti 2 1 0xFFFF#16) ∧ encode (.slti 2 1 0xFFFF#16) = 0x2822FFFF#32 := by decide

/-- SLTIU, R134. -/
theorem test_decode_sltiu : (0b001011#6 ++ 1#5 ++ 2#5 ++ 0xFFFF#16 : Word) = 0x2C22FFFF#32 ∧
    decodeWord 0x2C22FFFF#32 = .ok (.sltiu 2 1 0xFFFF#16) ∧ encode (.sltiu 2 1 0xFFFF#16) = 0x2C22FFFF#32 := by decide

/-- ANDI, R135. -/
theorem test_decode_andi : (0b001100#6 ++ 1#5 ++ 2#5 ++ 0xFF00#16 : Word) = 0x3022FF00#32 ∧
    decodeWord 0x3022FF00#32 = .ok (.andi 2 1 0xFF00#16) ∧ encode (.andi 2 1 0xFF00#16) = 0x3022FF00#32 := by decide

/-- ORI, R136. -/
theorem test_decode_ori : (0b001101#6 ++ 1#5 ++ 2#5 ++ 0xFF00#16 : Word) = 0x3422FF00#32 ∧
    decodeWord 0x3422FF00#32 = .ok (.ori 2 1 0xFF00#16) ∧ encode (.ori 2 1 0xFF00#16) = 0x3422FF00#32 := by decide

/-- XORI, R137. -/
theorem test_decode_xori : (0b001110#6 ++ 1#5 ++ 2#5 ++ 0xFF00#16 : Word) = 0x3822FF00#32 ∧
    decodeWord 0x3822FF00#32 = .ok (.xori 2 1 0xFF00#16) ∧ encode (.xori 2 1 0xFF00#16) = 0x3822FF00#32 := by decide

/-- SLL, R141. -/
theorem test_decode_sll : (0b000000#6 ++ 0b00000#5 ++ 2#5 ++ 3#5 ++ 4#5 ++ 0b000000#6 : Word) = 0x00021900#32 ∧
    decodeWord 0x00021900#32 = .ok (.sll 3 2 4#5) ∧ encode (.sll 3 2 4#5) = 0x00021900#32 := by decide

/-- SLLV, R142. -/
theorem test_decode_sllv : (0b000000#6 ++ 1#5 ++ 2#5 ++ 3#5 ++ 0b00000#5 ++ 0b000100#6 : Word) = 0x00221804#32 ∧
    decodeWord 0x00221804#32 = .ok (.sllv 3 2 1) ∧ encode (.sllv 3 2 1) = 0x00221804#32 := by decide

/-- SRL, R143. -/
theorem test_decode_srl : (0b000000#6 ++ 0b00000#5 ++ 2#5 ++ 3#5 ++ 4#5 ++ 0b000010#6 : Word) = 0x00021902#32 ∧
    decodeWord 0x00021902#32 = .ok (.srl 3 2 4#5) ∧ encode (.srl 3 2 4#5) = 0x00021902#32 := by decide

/-- SRLV, R144. -/
theorem test_decode_srlv : (0b000000#6 ++ 1#5 ++ 2#5 ++ 3#5 ++ 0b00000#5 ++ 0b000110#6 : Word) = 0x00221806#32 ∧
    decodeWord 0x00221806#32 = .ok (.srlv 3 2 1) ∧ encode (.srlv 3 2 1) = 0x00221806#32 := by decide

/-- SRA, R145. -/
theorem test_decode_sra : (0b000000#6 ++ 0b00000#5 ++ 2#5 ++ 3#5 ++ 4#5 ++ 0b000011#6 : Word) = 0x00021903#32 ∧
    decodeWord 0x00021903#32 = .ok (.sra 3 2 4#5) ∧ encode (.sra 3 2 4#5) = 0x00021903#32 := by decide

/-- SRAV, R146. -/
theorem test_decode_srav : (0b000000#6 ++ 1#5 ++ 2#5 ++ 3#5 ++ 0b00000#5 ++ 0b000111#6 : Word) = 0x00221807#32 ∧
    decodeWord 0x00221807#32 = .ok (.srav 3 2 1) ∧ encode (.srav 3 2 1) = 0x00221807#32 := by decide

/-- LW, R151. -/
theorem test_decode_lw : (0b100011#6 ++ 1#5 ++ 2#5 ++ 8#16 : Word) = 0x8C220008#32 ∧
    decodeWord 0x8C220008#32 = .ok (.lw 2 8#16 1) ∧ encode (.lw 2 8#16 1) = 0x8C220008#32 := by decide

/-- SW, R152. -/
theorem test_decode_sw : (0b101011#6 ++ 1#5 ++ 2#5 ++ 8#16 : Word) = 0xAC220008#32 ∧
    decodeWord 0xAC220008#32 = .ok (.sw 2 8#16 1) ∧ encode (.sw 2 8#16 1) = 0xAC220008#32 := by decide

/-- LBU, R153. -/
theorem test_decode_lbu : (0b100100#6 ++ 1#5 ++ 2#5 ++ 3#16 : Word) = 0x90220003#32 ∧
    decodeWord 0x90220003#32 = .ok (.lbu 2 3#16 1) ∧ encode (.lbu 2 3#16 1) = 0x90220003#32 := by decide

/-- LB, R154. -/
theorem test_decode_lb : (0b100000#6 ++ 1#5 ++ 2#5 ++ 3#16 : Word) = 0x80220003#32 ∧
    decodeWord 0x80220003#32 = .ok (.lb 2 3#16 1) ∧ encode (.lb 2 3#16 1) = 0x80220003#32 := by decide

/-- LHU, R155. -/
theorem test_decode_lhu : (0b100101#6 ++ 1#5 ++ 2#5 ++ 2#16 : Word) = 0x94220002#32 ∧
    decodeWord 0x94220002#32 = .ok (.lhu 2 2#16 1) ∧ encode (.lhu 2 2#16 1) = 0x94220002#32 := by decide

/-- LH, R156. -/
theorem test_decode_lh : (0b100001#6 ++ 1#5 ++ 2#5 ++ 2#16 : Word) = 0x84220002#32 ∧
    decodeWord 0x84220002#32 = .ok (.lh 2 2#16 1) ∧ encode (.lh 2 2#16 1) = 0x84220002#32 := by decide

/-- SB, R157. -/
theorem test_decode_sb : (0b101000#6 ++ 1#5 ++ 2#5 ++ 3#16 : Word) = 0xA0220003#32 ∧
    decodeWord 0xA0220003#32 = .ok (.sb 2 3#16 1) ∧ encode (.sb 2 3#16 1) = 0xA0220003#32 := by decide

/-- SH, R158. -/
theorem test_decode_sh : (0b101001#6 ++ 1#5 ++ 2#5 ++ 2#16 : Word) = 0xA4220002#32 ∧
    decodeWord 0xA4220002#32 = .ok (.sh 2 2#16 1) ∧ encode (.sh 2 2#16 1) = 0xA4220002#32 := by decide

/-- LWC1, R159. -/
theorem test_decode_lwc1 : (0b110001#6 ++ 1#5 ++ 2#5 ++ 8#16 : Word) = 0xC4220008#32 ∧
    decodeWord 0xC4220008#32 = .ok (.lwc1 2 8#16 1) ∧ encode (.lwc1 2 8#16 1) = 0xC4220008#32 := by decide

/-- SWC1, R160. -/
theorem test_decode_swc1 : (0b111001#6 ++ 1#5 ++ 2#5 ++ 8#16 : Word) = 0xE4220008#32 ∧
    decodeWord 0xE4220008#32 = .ok (.swc1 2 8#16 1) ∧ encode (.swc1 2 8#16 1) = 0xE4220008#32 := by decide

/-- LUI, R161. -/
theorem test_decode_lui : (0b001111#6 ++ 0b00000#5 ++ 2#5 ++ 0x1234#16 : Word) = 0x3C021234#32 ∧
    decodeWord 0x3C021234#32 = .ok (.lui 2 0x1234#16) ∧ encode (.lui 2 0x1234#16) = 0x3C021234#32 := by decide

/-- BEQ, R171. -/
theorem test_decode_beq : (0b000100#6 ++ 1#5 ++ 2#5 ++ 3#16 : Word) = 0x10220003#32 ∧
    decodeWord 0x10220003#32 = .ok (.beq 1 2 3#16) ∧ encode (.beq 1 2 3#16) = 0x10220003#32 := by decide

/-- BNE, R172. -/
theorem test_decode_bne : (0b000101#6 ++ 1#5 ++ 2#5 ++ 3#16 : Word) = 0x14220003#32 ∧
    decodeWord 0x14220003#32 = .ok (.bne 1 2 3#16) ∧ encode (.bne 1 2 3#16) = 0x14220003#32 := by decide

/-- BLEZ, R173. -/
theorem test_decode_blez : (0b000110#6 ++ 1#5 ++ 0b00000#5 ++ 0xFFFE#16 : Word) = 0x1820FFFE#32 ∧
    decodeWord 0x1820FFFE#32 = .ok (.blez 1 0xFFFE#16) ∧ encode (.blez 1 0xFFFE#16) = 0x1820FFFE#32 := by decide

/-- BGTZ, R174. -/
theorem test_decode_bgtz : (0b000111#6 ++ 1#5 ++ 0b00000#5 ++ 0xFFFE#16 : Word) = 0x1C20FFFE#32 ∧
    decodeWord 0x1C20FFFE#32 = .ok (.bgtz 1 0xFFFE#16) ∧ encode (.bgtz 1 0xFFFE#16) = 0x1C20FFFE#32 := by decide

/-- BLTZ, R175. -/
theorem test_decode_bltz : (0b000001#6 ++ 1#5 ++ 0b00000#5 ++ 0xFFFE#16 : Word) = 0x0420FFFE#32 ∧
    decodeWord 0x0420FFFE#32 = .ok (.bltz 1 0xFFFE#16) ∧ encode (.bltz 1 0xFFFE#16) = 0x0420FFFE#32 := by decide

/-- J, R176. -/
theorem test_decode_j : (0b000010#6 ++ 0x100008#26 : Word) = 0x08100008#32 ∧
    decodeWord 0x08100008#32 = .ok (.j 0x0100008#26) ∧ encode (.j 0x0100008#26) = 0x08100008#32 := by decide

/-- JAL, R177. -/
theorem test_decode_jal : (0b000011#6 ++ 0x100008#26 : Word) = 0x0C100008#32 ∧
    decodeWord 0x0C100008#32 = .ok (.jal 0x0100008#26) ∧ encode (.jal 0x0100008#26) = 0x0C100008#32 := by decide

/-- JR, R178. -/
theorem test_decode_jr : (0b000000#6 ++ 31#5 ++ 0b00000#5 ++ 0b00000#5 ++ 0b00000#5 ++ 0b001000#6 :
    Word) = 0x03E00008#32 ∧
    decodeWord 0x03E00008#32 = .ok (.jr 31) ∧ encode (.jr 31) = 0x03E00008#32 := by decide

/-- JALR, R179. -/
theorem test_decode_jalr : (0b000000#6 ++ 2#5 ++ 0b00000#5 ++ 31#5 ++ 0b00000#5 ++ 0b001001#6 : Word) = 0x0040F809#32 ∧
    decodeWord 0x0040F809#32 = .ok (.jalr 31 2) ∧ encode (.jalr 31 2) = 0x0040F809#32 := by decide

/-- MFHI, R191. -/
theorem test_decode_mfhi : (0b000000#6 ++ 0b00000#5 ++ 0b00000#5 ++ 3#5 ++ 0b00000#5 ++ 0b010000#6 :
    Word) = 0x00001810#32 ∧
    decodeWord 0x00001810#32 = .ok (.mfhi 3) ∧ encode (.mfhi 3) = 0x00001810#32 := by decide

/-- MFLO, R192. -/
theorem test_decode_mflo : (0b000000#6 ++ 0b00000#5 ++ 0b00000#5 ++ 3#5 ++ 0b00000#5 ++ 0b010010#6 :
    Word) = 0x00001812#32 ∧
    decodeWord 0x00001812#32 = .ok (.mflo 3) ∧ encode (.mflo 3) = 0x00001812#32 := by decide

/-- MFC0, R193. -/
theorem test_decode_mfc0 : (0b010000#6 ++ 0b00000#5 ++ 2#5 ++ 14#5 ++ 0b00000#5 ++ 0b000000#6 : Word) = 0x40027000#32 ∧
    decodeWord 0x40027000#32 = .ok (.mfc0 2 14) ∧ encode (.mfc0 2 14) = 0x40027000#32 := by decide

/-- MTC0, R194. -/
theorem test_decode_mtc0 : (0b010000#6 ++ 0b00100#5 ++ 2#5 ++ 14#5 ++ 0b00000#5 ++ 0b000000#6 : Word) = 0x40827000#32 ∧
    decodeWord 0x40827000#32 = .ok (.mtc0 14 2) ∧ encode (.mtc0 14 2) = 0x40827000#32 := by decide

/-- ADD.S, R203. -/
theorem test_decode_addS : (0b010001#6 ++ 0b00000#5 ++ 1#5 ++ 0#5 ++ 2#5 ++ 0b000000#6 : Word) = 0x44010080#32 ∧
    decodeWord 0x44010080#32 = .ok (.addS 2 0 1) ∧ encode (.addS 2 0 1) = 0x44010080#32 := by decide

/-- ADD.D, R204. -/
theorem test_decode_addD : (0b010001#6 ++ 0b00001#5 ++ 2#5 ++ 0#5 ++ 4#5 ++ 0b000000#6 : Word) = 0x44220100#32 ∧
    decodeWord 0x44220100#32 = .ok (.addD 4 0 2) ∧ encode (.addD 4 0 2) = 0x44220100#32 := by decide

/-- SUB.S, R205. -/
theorem test_decode_subS : (0b010001#6 ++ 0b00000#5 ++ 1#5 ++ 0#5 ++ 2#5 ++ 0b000001#6 : Word) = 0x44010081#32 ∧
    decodeWord 0x44010081#32 = .ok (.subS 2 0 1) ∧ encode (.subS 2 0 1) = 0x44010081#32 := by decide

/-- SUB.D, R206. -/
theorem test_decode_subD : (0b010001#6 ++ 0b00001#5 ++ 2#5 ++ 0#5 ++ 4#5 ++ 0b000001#6 : Word) = 0x44220101#32 ∧
    decodeWord 0x44220101#32 = .ok (.subD 4 0 2) ∧ encode (.subD 4 0 2) = 0x44220101#32 := by decide

/-- MUL.S, R207. -/
theorem test_decode_mulS : (0b010001#6 ++ 0b00000#5 ++ 1#5 ++ 0#5 ++ 2#5 ++ 0b000010#6 : Word) = 0x44010082#32 ∧
    decodeWord 0x44010082#32 = .ok (.mulS 2 0 1) ∧ encode (.mulS 2 0 1) = 0x44010082#32 := by decide

/-- MUL.D, R208. -/
theorem test_decode_mulD : (0b010001#6 ++ 0b00001#5 ++ 2#5 ++ 0#5 ++ 4#5 ++ 0b000010#6 : Word) = 0x44220102#32 ∧
    decodeWord 0x44220102#32 = .ok (.mulD 4 0 2) ∧ encode (.mulD 4 0 2) = 0x44220102#32 := by decide

/-- DIV.S, R209. -/
theorem test_decode_divS : (0b010001#6 ++ 0b00000#5 ++ 1#5 ++ 0#5 ++ 2#5 ++ 0b000011#6 : Word) = 0x44010083#32 ∧
    decodeWord 0x44010083#32 = .ok (.divS 2 0 1) ∧ encode (.divS 2 0 1) = 0x44010083#32 := by decide

/-- DIV.D, R210. -/
theorem test_decode_divD : (0b010001#6 ++ 0b00001#5 ++ 2#5 ++ 0#5 ++ 4#5 ++ 0b000011#6 : Word) = 0x44220103#32 ∧
    decodeWord 0x44220103#32 = .ok (.divD 4 0 2) ∧ encode (.divD 4 0 2) = 0x44220103#32 := by decide

/-- MOV.S, R211. -/
theorem test_decode_movS : (0b010001#6 ++ 0b00000#5 ++ 0b00000#5 ++ 1#5 ++ 2#5 ++ 0b000110#6 : Word) = 0x44000886#32 ∧
    decodeWord 0x44000886#32 = .ok (.movS 2 1) ∧ encode (.movS 2 1) = 0x44000886#32 := by decide

/-- MOV.D, R212. -/
theorem test_decode_movD : (0b010001#6 ++ 0b00001#5 ++ 0b00000#5 ++ 0#5 ++ 2#5 ++ 0b000110#6 : Word) = 0x44200086#32 ∧
    decodeWord 0x44200086#32 = .ok (.movD 2 0) ∧ encode (.movD 2 0) = 0x44200086#32 := by decide

/-- SYSCALL, R220. -/
theorem test_decode_syscall : (0b000000#6 ++ 0#20 ++ 0b001100#6 : Word) = 0x0000000C#32 ∧
    decodeWord 0x0000000C#32 = .ok .syscall ∧ encode .syscall = 0x0000000C#32 := by decide

-- A small state, and one step of it.

/-- The reset state moved to an address a program could have. -/
def start : State := { State.reset with pc := 0x00400000#32 }

/-- General registers given values. -/
def regs (l : List (Reg × Word)) (s : State) : State := l.foldl (fun s p => s.setX p.1 p.2) s

/-- Floating-point registers given values. -/
def fregs (l : List (FReg × Word)) (s : State) : State := l.foldl (fun s p => s.setF p.1 p.2) s

/-- Bytes loaded at an address. -/
def load (a : Nat) (bs : List Byte) (s : State) : State := { s with mem := Memory.writeBytes s.mem a bs }

/-- The same state at another address. -/
def at' (pc : Word) (s : State) : State := { s with pc := pc }

/-- The same state in little byte order. -/
def little (s : State) : State := { s with platform := { s.platform with byteOrder := .little } }

/-- The same state with the other pair order. -/
def firstLow (s : State) : State := { s with platform := { s.platform with pairOrder := .firstLow } }

/-- The same state in user mode. -/
def user (s : State) : State := { s with mode := .user }

/-- The same state on a platform where the addresses `a` to `b` are legal for nothing. -/
def hole (a b : Word) (s : State) : State :=
  { s with platform := { s.platform with holes := [⟨none, none, none, a, b⟩] } }

/-- Whether `r` is a next state that satisfies `p`. -/
def nextHas (r : Result) (p : State → Bool) : Bool :=
  match r with
  | .next t => p t
  | _ => false

/-- Whether the step that runs the word `w` at `pc` gives a next state that satisfies `p`. -/
def runs (s : State) (w : Word) (p : State → Bool) : Bool := nextHas (step (s.placeWord w)) p

/-- Whether `t` is at the vector with the given code and EPC. -/
def entered (code epc : Word) (t : State) : Bool := t.pc == 0x80000180#32 && t.cause == code && t.epc == epc

-- Two tests at most for each instruction. The expected values are those of the example or of a corner case of the
-- instruction's rule in spec/.

/-- R111, example; and the corner case 0x7FFFFFFF + 1 with rd = 0, which still raises. -/
theorem test_add :
    runs (regs [(1, 5#32), (2, 7#32)] start) 0x00221820#32 (fun t => t.x 3 == 0xC#32 &&
    t.pc == 0x00400004#32) := by decide
theorem test_add_raises :
    runs (regs [(1, 0x7FFFFFFF#32), (2, 1#32)] start) 0x00220020#32 (entered 12#32 0x00400000#32) := by decide

/-- R112, example. -/
theorem test_addu :
    runs (regs [(1, 0x7FFFFFFF#32), (2, 1#32)] start) 0x00221821#32 (fun t => t.x 3 == 0x80000000#32) := by decide

/-- R113, example; and 0 - 0x80000000, which raises and leaves x[3]. -/
theorem test_sub : runs (regs [(1, 5#32), (2, 7#32)] start) 0x00221822#32 (fun t => t.x 3 == 0xFFFFFFFE#32) := by decide
theorem test_sub_raises :
    runs (regs [(2, 0x80000000#32), (3, 9#32)] start) 0x00221822#32
      (fun t => entered 12#32 0x00400000#32 t && t.x 3 == 9#32) := by decide

/-- R114, example. -/
theorem test_subu :
    runs (regs [(1, 0x80000000#32), (2, 1#32)] start) 0x00221823#32 (fun t => t.x 3 == 0x7FFFFFFF#32) := by decide

/-- R115, example; and 0x80000000 * 0x80000000 = 2^62. -/
theorem test_mult :
    runs (regs [(1, 0xFFFFFFFE#32), (2, 3#32)] start) 0x00220018#32
      (fun t => t.hi == 0xFFFFFFFF#32 && t.lo == 0xFFFFFFFA#32) := by decide
theorem test_mult_corner :
    runs (regs [(1, 0x80000000#32), (2, 0x80000000#32)] start) 0x00220018#32
      (fun t => t.hi == 0x40000000#32 && t.lo == 0#32) := by decide

/-- R116, example; and 0xFFFFFFFF * 0xFFFFFFFF. -/
theorem test_multu :
    runs (regs [(1, 0xFFFFFFFE#32), (2, 3#32)] start) 0x00220019#32 (fun t => t.hi == 2#32 &&
    t.lo == 0xFFFFFFFA#32) := by decide
theorem test_multu_corner :
    runs (regs [(1, 0xFFFFFFFF#32), (2, 0xFFFFFFFF#32)] start) 0x00220019#32
      (fun t => t.hi == 0xFFFFFFFE#32 && t.lo == 1#32) := by decide

/-- R117, example -7 / 2; and 7 / -2. -/
theorem test_div :
    runs (regs [(1, 0xFFFFFFF9#32), (2, 2#32)] start) 0x0022001A#32
      (fun t => t.lo == 0xFFFFFFFD#32 && t.hi == 0xFFFFFFFF#32) := by decide
theorem test_div_negative_divisor :
    runs (regs [(1, 7#32), (2, 0xFFFFFFFE#32)] start) 0x0022001A#32 (fun t => t.lo == 0xFFFFFFFD#32 &&
    t.hi == 1#32) := by decide

/-- R118, example; and a zero divisor, which completes. -/
theorem test_divu :
    runs (regs [(1, 0xFFFFFFF9#32), (2, 2#32)] start) 0x0022001B#32 (fun t => t.lo == 0x7FFFFFFC#32 &&
    t.hi == 1#32) := by decide
theorem test_divu_by_zero :
    runs (regs [(1, 7#32)] start) 0x0022001B#32 (fun t => t.pc == 0x00400004#32 && t.x 1 == 7#32) := by decide

/-- R119, example; and 0x80000000 < 0x7FFFFFFF. -/
theorem test_slt : runs (regs [(1, 0xFFFFFFFF#32), (2, 1#32)] start) 0x0022182A#32 (fun t => t.x 3 == 1#32) := by decide
theorem test_slt_extremes :
    runs (regs [(1, 0x80000000#32), (2, 0x7FFFFFFF#32)] start) 0x0022182A#32 (fun t => t.x 3 == 1#32) := by decide

/-- R120, example. -/
theorem test_sltu :
    runs (regs [(1, 0xFFFFFFFF#32), (2, 1#32), (3, 9#32)] start) 0x0022182B#32 (fun t => t.x 3 == 0#32) := by decide

/-- R121 to R124, examples. -/
theorem test_and :
    runs (regs [(1, 0x0000FF0F#32), (2, 0x00F0F0FF#32)] start) 0x00221824#32
    (fun t => t.x 3 == 0x0000F00F#32) := by decide
theorem test_or :
    runs (regs [(1, 0x0000FF0F#32), (2, 0x00F0F0FF#32)] start) 0x00221825#32
    (fun t => t.x 3 == 0x00F0FFFF#32) := by decide
theorem test_nor :
    runs (regs [(1, 0x0000FF0F#32), (2, 0x00F0F0FF#32)] start) 0x00221827#32
    (fun t => t.x 3 == 0xFF0F0000#32) := by decide
theorem test_xor :
    runs (regs [(1, 0x0000FF0F#32), (2, 0x00F0F0FF#32)] start) 0x00221826#32
    (fun t => t.x 3 == 0x00F00FF0#32) := by decide

/-- R131, example; and 0x80000000 + (-1), which raises. -/
theorem test_addi : runs (regs [(1, 5#32)] start) 0x2022FFFF#32 (fun t => t.x 2 == 4#32) := by decide
theorem test_addi_raises :
    runs (regs [(1, 0x80000000#32)] start) 0x2022FFFF#32 (entered 12#32 0x00400000#32) := by decide

/-- R132 to R137, examples; SLTIU's second one. -/
theorem test_addiu : runs start 0x2422FFFF#32 (fun t => t.x 2 == 0xFFFFFFFF#32) := by decide
theorem test_slti : runs (regs [(1, 0xFFFFFFFE#32)] start) 0x2822FFFF#32 (fun t => t.x 2 == 1#32) := by decide
theorem test_sltiu : runs (regs [(1, 0xFFFFFFFE#32)] start) 0x2C22FFFF#32 (fun t => t.x 2 == 1#32) := by decide
theorem test_sltiu_equal :
    runs (regs [(1, 0xFFFFFFFF#32), (2, 9#32)] start) 0x2C22FFFF#32 (fun t => t.x 2 == 0#32) := by decide
theorem test_andi : runs (regs [(1, 0x12345678#32)] start) 0x3022FF00#32 (fun t => t.x 2 == 0x00005600#32) := by decide
theorem test_ori : runs (regs [(1, 0x12345678#32)] start) 0x3422FF00#32 (fun t => t.x 2 == 0x1234FF78#32) := by decide
theorem test_xori : runs (regs [(1, 0x12345678#32)] start) 0x3822FF00#32 (fun t => t.x 2 == 0x1234A978#32) := by decide

/-- R141 to R146, examples. -/
theorem test_sll : runs (regs [(2, 0x80000001#32)] start) 0x00021900#32 (fun t => t.x 3 == 0x10#32) := by decide
theorem test_sllv : runs (regs [(1, 0x24#32), (2, 1#32)] start) 0x00221804#32 (fun t => t.x 3 == 0x10#32) := by decide
theorem test_srl : runs (regs [(2, 0x80000010#32)] start) 0x00021902#32 (fun t => t.x 3 == 0x08000001#32) := by decide
theorem test_srlv :
    runs (regs [(1, 4#32), (2, 0x80000010#32)] start) 0x00221806#32 (fun t => t.x 3 == 0x08000001#32) := by decide
theorem test_sra : runs (regs [(2, 0x80000010#32)] start) 0x00021903#32 (fun t => t.x 3 == 0xF8000001#32) := by decide
theorem test_srav :
    runs (regs [(1, 4#32), (2, 0x80000010#32)] start) 0x00221807#32 (fun t => t.x 3 == 0xF8000001#32) := by decide

/-- R151, example, in big order; and a misaligned address, which raises and leaves x[2]. -/
theorem test_lw :
    runs (regs [(1, 0x1000#32)] (load 0x1008 [0xDE#8, 0xAD#8, 0xBE#8, 0xEF#8] start)) 0x8C220008#32
      (fun t => t.x 2 == 0xDEADBEEF#32) := by decide
theorem test_lw_misaligned :
    runs (regs [(1, 0x1001#32), (2, 9#32)] start) 0x8C220008#32
      (fun t => entered 4#32 0x00400000#32 t && t.x 2 == 9#32) := by decide

/-- R152, example, in both orders. -/
theorem test_sw :
    runs (regs [(1, 0x1000#32), (2, 0x11223344#32)] start) 0xAC220008#32
      (fun t => t.mem.take 4 == [(0x1008, 0x11#8), (0x1009, 0x22#8), (0x100A, 0x33#8), (0x100B, 0x44#8)]) := by decide
theorem test_sw_little :
    runs (little (regs [(1, 0x1000#32), (2, 0x11223344#32)] start)) 0xAC220008#32
      (fun t => t.mem.take 4 == [(0x1008, 0x44#8), (0x1009, 0x33#8), (0x100A, 0x22#8), (0x100B, 0x11#8)]) := by decide

/-- R153 to R156, examples. -/
theorem test_lbu :
    runs (regs [(1, 0x1000#32)] (load 0x1003 [0x80#8] start)) 0x90220003#32 (fun t => t.x 2 == 0x80#32) := by decide
theorem test_lb :
    runs (regs [(1, 0x1000#32)] (load 0x1003 [0x80#8] start)) 0x80220003#32
    (fun t => t.x 2 == 0xFFFFFF80#32) := by decide
theorem test_lhu :
    runs (regs [(1, 0x1000#32)] (load 0x1002 [0x80#8, 0x01#8] start)) 0x94220002#32
    (fun t => t.x 2 == 0x8001#32) := by decide
theorem test_lh :
    runs (little (regs [(1, 0x1000#32)] (load 0x1002 [0x01#8, 0x80#8] start))) 0x84220002#32
      (fun t => t.x 2 == 0xFFFF8001#32) := by decide

/-- R157, example, the neighbour kept; R158, example, in both orders. -/
theorem test_sb :
    runs (regs [(1, 0x1000#32), (2, 0x12345678#32)] (load 0x1002 [0xAA#8] start)) 0xA0220003#32
      (fun t => t.mem.take 2 == [(0x1002, 0xAA#8), (0x1003, 0x78#8)]) := by decide
theorem test_sh :
    runs (regs [(1, 0x1000#32), (2, 0x12345678#32)] start) 0xA4220002#32
      (fun t => t.mem.take 2 == [(0x1002, 0x56#8), (0x1003, 0x78#8)]) := by decide
theorem test_sh_little :
    runs (little (regs [(1, 0x1000#32), (2, 0x12345678#32)] start)) 0xA4220002#32
      (fun t => t.mem.take 2 == [(0x1002, 0x78#8), (0x1003, 0x56#8)]) := by decide

/-- R159 to R161, examples. -/
theorem test_lwc1 :
    runs (regs [(1, 0x1000#32)] (load 0x1008 [0x3F#8, 0x80#8, 0#8, 0#8] start)) 0xC4220008#32
      (fun t => t.f 2 == 0x3F800000#32) := by decide
theorem test_swc1 :
    runs (regs [(1, 0x1000#32)] (fregs [(2, 0x40400000#32)] start)) 0xE4220008#32
      (fun t => t.wordAt 0x1008#32 == some 0x40400000#32) := by decide
theorem test_lui : runs start 0x3C021234#32 (fun t => t.x 2 == 0x12340000#32) := by decide

/-- R171 to R175, examples. -/
theorem test_beq : runs start 0x10220003#32 (fun t => t.pc == 0x00400010#32) := by decide
theorem test_beq_not_taken : runs (regs [(1, 1#32)] start) 0x10220003#32 (fun t => t.pc == 0x00400004#32) := by decide
theorem test_bne : runs (regs [(1, 1#32), (2, 2#32)] start) 0x14220003#32 (fun t => t.pc == 0x00400010#32) := by decide
theorem test_blez : runs (at' 0x00400010#32 start) 0x1820FFFE#32 (fun t => t.pc == 0x0040000C#32) := by decide
theorem test_bgtz :
    runs (at' 0x00400010#32 (regs [(1, 5#32)] start)) 0x1C20FFFE#32 (fun t => t.pc == 0x0040000C#32) := by decide
theorem test_bgtz_negative :
    runs (at' 0x00400010#32 (regs [(1, 0x80000000#32)] start)) 0x1C20FFFE#32
    (fun t => t.pc == 0x00400014#32) := by decide
theorem test_bltz :
    runs (at' 0x00400010#32 (regs [(1, 0xFFFFFFFF#32)] start)) 0x0420FFFE#32
    (fun t => t.pc == 0x0040000C#32) := by decide
theorem test_bltz_zero : runs (at' 0x00400010#32 start) 0x0420FFFE#32 (fun t => t.pc == 0x00400014#32) := by decide

/-- R176, example in another region; R177, R178, examples. -/
theorem test_j : runs (at' 0x90000000#32 start) 0x08100008#32 (fun t => t.pc == 0x90400020#32) := by decide
theorem test_jal :
    runs (at' 0x00400008#32 start) 0x0C100008#32 (fun t => t.x 31 == 0x0040000C#32 &&
    t.pc == 0x00400020#32) := by decide
theorem test_jr : runs (regs [(31, 0x0040000C#32)] start) 0x03E00008#32 (fun t => t.pc == 0x0040000C#32) := by decide

/-- R179, example; and rd = rs, which jumps to the old value. -/
theorem test_jalr :
    runs (at' 0x00400010#32 (regs [(2, 0x00400100#32)] start)) 0x0040F809#32
      (fun t => t.x 31 == 0x00400014#32 && t.pc == 0x00400100#32) := by decide
theorem test_jalr_same :
    runs (regs [(2, 0x00400100#32)] start) 0x00401009#32 (fun t => t.x 2 == 0x00400004#32 &&
    t.pc == 0x00400100#32) := by decide

/-- R191 to R194, examples; MTC0 to Status in kernel mode leaves the mode. -/
theorem test_mfhi : runs (start.setHiLo 0xFFFFFFFF#32 0#32) 0x00001810#32 (fun t => t.x 3 == 0xFFFFFFFF#32) := by decide
theorem test_mflo : runs (start.setHiLo 0#32 0x2A#32) 0x00001812#32 (fun t => t.x 3 == 0x2A#32) := by decide
theorem test_mfc0 : runs (start.setC0 .epc 0x00400008#32) 0x40027000#32 (fun t => t.x 2 == 0x00400008#32) := by decide
theorem test_mfc0_cause : runs (start.setC0 .cause 12#32) 0x40026800#32 (fun t => t.x 2 == 12#32) := by decide
theorem test_mtc0 : runs (regs [(2, 0x0040000C#32)] start) 0x40827000#32 (fun t => t.epc == 0x0040000C#32) := by decide
theorem test_mtc0_status :
    runs (regs [(2, 0xFFFFFFFF#32)] start) 0x40826000#32 (fun t => t.status == 0xFFFFFFFF#32 &&
    t.mode == .kernel) := by decide

/-- R203 to R210, examples; R204 in both pair orders. -/
theorem test_addS :
    runs (fregs [(0, 0x3F800000#32), (1, 0x40000000#32)] start) 0x44010080#32
    (fun t => t.f 2 == 0x40400000#32) := by decide +kernel
theorem test_subS :
    runs (fregs [(0, 0x3F800000#32), (1, 0x40000000#32)] start) 0x44010081#32
    (fun t => t.f 2 == 0xBF800000#32) := by decide +kernel
theorem test_mulS :
    runs (fregs [(0, 0x40400000#32), (1, 0xC0000000#32)] start) 0x44010082#32
    (fun t => t.f 2 == 0xC0C00000#32) := by decide +kernel
theorem test_divS :
    runs (fregs [(0, 0x40C00000#32), (1, 0x40000000#32)] start) 0x44010083#32
    (fun t => t.f 2 == 0x40400000#32) := by decide +kernel
theorem test_addD :
    runs (fregs [(0, 0x3FF00000#32), (2, 0x40000000#32)] start) 0x44220100#32
      (fun t => t.f 4 == 0x40080000#32 && t.f 5 == 0#32) := by decide +kernel
theorem test_addD_firstLow :
    runs (firstLow (fregs [(1, 0x3FF00000#32), (3, 0x40000000#32)] start)) 0x44220100#32
      (fun t => t.f 4 == 0#32 && t.f 5 == 0x40080000#32) := by decide +kernel
theorem test_subD :
    runs (fregs [(0, 0x3FF00000#32), (2, 0x40000000#32)] start) 0x44220101#32
      (fun t => t.pair 4 == 0xBFF0000000000000#64) := by decide +kernel
theorem test_mulD :
    runs (fregs [(0, 0x40080000#32), (2, 0xC0000000#32)] start) 0x44220102#32
      (fun t => t.pair 4 == 0xC018000000000000#64) := by decide +kernel
theorem test_divD :
    runs (fregs [(0, 0x40180000#32), (2, 0x40000000#32)] start) 0x44220103#32
      (fun t => t.pair 4 == 0x4008000000000000#64) := by decide +kernel

/-- R211, R212, examples. -/
theorem test_movS : runs (fregs [(1, 0x7FC00001#32)] start) 0x44000886#32 (fun t => t.f 2 == 0x7FC00001#32) := by decide
theorem test_movD :
    runs (fregs [(0, 0x11111111#32), (1, 0x22222222#32)] start) 0x44200086#32
      (fun t => t.f 2 == 0x11111111#32 && t.f 3 == 0x22222222#32) := by decide

/-- R220, example, and the word with every ignored bit set. -/
theorem test_syscall :
    runs (user (at' 0x00400010#32 start)) 0x0000000C#32 (fun t => entered 8#32 0x00400010#32 t &&
    t.mode == .kernel) := by decide
theorem test_syscall_ignored_bits :
    runs (user (at' 0x00400010#32 start)) 0x03FFFFCC#32 (fun t => entered 8#32 0x00400010#32 t &&
    t.mode == .kernel) := by decide

/-- 60_exceptions.md R237 and 30_encoding.md R94: SRL with bits 25..21 not zero is an illegal op-code. -/
theorem test_illegal_opcode : runs start 0x00221902#32 (entered 10#32 0x00400000#32) := by decide

-- WellFormed: an ill-formed term for each check, which the check refuses.

/-- 46_float.md R213: odd fd, fs, ft. -/
theorem test_wellFormed_oddFd :
    (Instr.addD 1 0 2).wellFormed = false ∧ (Instr.divD 31 0 2).wellFormed = false := by decide
theorem test_wellFormed_oddFs : (Instr.subD 0 3 2).wellFormed = false := by decide
theorem test_wellFormed_oddFt :
    (Instr.mulD 0 2 5).wellFormed = false ∧ (Instr.mulD 0 2 4).wellFormed = true := by decide
theorem test_wellFormed_movD :
    (Instr.movD 1 0).wellFormed = false ∧ (Instr.movD 0 1).wellFormed = false ∧
    (Instr.movD 2 30).wellFormed = true := by decide

/-- 45_move_hilo_cop0.md R195: a coprocessor 0 number other than 12, 13, 14. -/
theorem test_wellFormed_mfc0 :
    (Instr.mfc0 2 9).wellFormed = false ∧ (Instr.mfc0 2 15).wellFormed = false ∧
    (Instr.mfc0 2 12).wellFormed = true := by decide
theorem test_wellFormed_mtc0 : (Instr.mtc0 11 2).wellFormed = false ∧ (Instr.mtc0 14 2).wellFormed = true := by decide

-- Witnesses: for each obligation with hypotheses, a concrete case that meets them all, for each of its clauses, at a
-- boundary where it has one.

/-- A next state with a property, from an evaluation. -/
theorem exists_next {r : Result} {q : State → Prop} [DecidablePred q] (h : nextHas r (fun t => decide (q t)) = true) :
    ∃ t, r = .next t ∧ q t := by
  cases r with
  | next t => exact ⟨t, rfl, by simpa [nextHas] using h⟩
  | fault r => cases h
  | refused r => cases h

/-- The four bytes of ADD R3, R1, R2 in big order. -/
def addBytes : List Byte := [0x00#8, 0x22#8, 0x18#8, 0x20#8]

/-- ADD R3, R1, R2 loaded at the last word of memory. -/
def lastWord : State := load 0xFFFFFFFC addBytes (at' 0xFFFFFFFC#32 start)

theorem witness_OnlySyscallHasIgnoredBits :
    decodeWord 0x00221820#32 = .ok (.add 3 1 2) ∧ (Instr.add 3 1 2) ≠ .syscall := by decide
theorem witness_OnlySyscallHasIgnoredBits_fetch :
    (start.placeWord (0b000000#6 ++ 0xFFFFF#20 ++ 0b001100#6)).fetch = .word (0b000000#6 ++ 0xFFFFF#20 ++ 0b001100#6) := by decide

theorem witness_StepRunsDecodedInstruction : lastWord.pc.toNat % 4 = 0 ∧
    legalAddr lastWord.platform lastWord.mode lastWord.pc 4 .fetch = true ∧
    (∀ k, k < 4 → lastWord.pc.toNat + k ∉ lastWord.stored) ∧
    MemoryHolds lastWord lastWord.pc.toNat [0x00#8, 0x22#8, 0x18#8, 0x20#8] ∧
    decode lastWord.platform.byteOrder [0x00#8, 0x22#8, 0x18#8, 0x20#8] = .ok (.add 3 1 2) := by
  unfold MemoryHolds; decide

theorem witness_IllegalFetchRaises_misaligned : (at' 0x00400003#32 start).pc.toNat % 4 ≠ 0 := by decide
theorem witness_IllegalFetchRaises_hole : (hole 0x00400000#32 0x00400000#32 start).pc.toNat % 4 = 0 ∧
    legalAddr (hole 0x00400000#32 0x00400000#32 start).platform .kernel 0x00400000#32 4 .fetch = false := by decide

theorem witness_IllegalOpcodeRaises : (load 0x00400000 [0xFF#8, 0xFF#8, 0xFF#8, 0xFF#8] start).pc.toNat % 4 = 0 ∧
    legalAddr start.platform .kernel 0x00400000#32 4 .fetch = true ∧ start.stored = [] ∧
    MemoryHolds (load 0x00400000 [0xFF#8, 0xFF#8, 0xFF#8, 0xFF#8] start) 0x00400000 [0xFF#8, 0xFF#8, 0xFF#8, 0xFF#8] := by
  unfold MemoryHolds; decide
theorem witness_IllegalOpcodeRaises_rows :
    ∀ r ∈ opcodeTable, BitVec.ofNat 32 (bytesValue .big [0xFF#8, 0xFF#8, 0xFF#8, 0xFF#8]) &&& r.1 ≠ r.2 := by
  simp [opcodeTable, bytesValue]

theorem witness_LegalFetchStops_stored : ∃ k, k < 4 ∧
    start.pc.toNat + k ∈ ((start.putBytes 0x00400003#32 [0#8]).stored) :=
  ⟨3, by decide⟩
theorem witness_LegalFetchStops_unwritten :
    (∀ k, k < 4 → start.pc.toNat + k ∉ (load 0x00400000 [0#8, 0#8, 0#8] start).stored) ∧
    3 < 4 ∧ Memory.read? (load 0x00400000 [0#8, 0#8, 0#8] start).mem (start.pc.toNat + 3) = none := by decide

theorem witness_UnfetchableVectorLoops : (at' 0x80000180#32 (hole 0x80000180#32 0x80000180#32 start)).mode = .kernel ∧
    legalAddr (hole 0x80000180#32 0x80000180#32 start).platform .kernel 0x80000180#32 4 .fetch = false := by decide

theorem witness_StepKeepsInvariant :
    (start.placeWord 0x00221820#32).wf ∧
    nextHas (step (start.placeWord 0x00221820#32)) (fun _ => true) = true := by decide

theorem witness_StepKeepsPlatform :
    ∃ t, step ((at' 0x00400001#32 start).putBytes 0x00400004#32 [0#8]) = .next t ∧
      0x00400001 + 3 ∈ ((at' 0x00400001#32 start).putBytes 0x00400004#32 [0#8]).stored := exists_next (by decide)

theorem witness_ModeChangesOnlyByException : ∃ t, step ((user start).placeWord 0x0000000C#32) = .next t ∧
    t.mode ≠ (user start).mode :=
  exists_next (by decide)
theorem witness_ModeChangesOnlyByException_kernel : ∃ t, step (start.placeWord 0x0000000C#32) = .next t ∧
    start.mode = .kernel :=
  exists_next (by decide)

theorem witness_OnlyStoresChangeMemory_none : ∃ t, exec (.addu 3 1 2) start = .next t ∧
    (Instr.addu 3 1 2).storeAccess = none :=
  exists_next (by decide)
theorem witness_OnlyStoresChangeMemory_store : ∃ t, exec (.sw 2 8#16 1) (regs [(1, 0x1000#32)] start) = .next t ∧
    (Instr.sw 2 8#16 1).storeAccess = some (1, 8#16, 4) ∧ ¬ (0x1008 ≤ 0x1007 ∧ 0x1007 < 0x1008 + 4) ∧
    ¬ (0x1008 ≤ 0x100C ∧ 0x100C < 0x1008 + 4) := exists_next (by decide)

/-- For O17 to O19: an instruction that answers a next state and names another destination than register 4. -/
theorem witness_OnlyDestinationsChange :
    ∃ t, exec (.addD 2 0 6) (fregs [(0, 0x3FF00000#32), (6, 0x40000000#32)] start) = .next t ∧
    (Instr.addD 2 0 6).destX ≠ some 4 ∧ (4 : FReg) ∉ (Instr.addD 2 0 6).destF := exists_next (by decide +kernel)

theorem witness_Cop0Changes_status : ∃ t, exec (.mtc0 12 2) (regs [(2, 1#32)] start) = .next t ∧
    t.status ≠ start.status := exists_next (by decide)
theorem witness_Cop0Changes_cause : ∃ t, exec .syscall start = .next t ∧ t.cause ≠ start.cause ∧
    t.epc ≠ start.epc := exists_next (by decide)

theorem witness_PcStaysAligned : ∃ t, exec (.beq 0 0 0x8000#16) start = .next t ∧
    start.pc.toNat % 4 = 0 := exists_next (by decide)
theorem witness_PcStaysAligned_form :
    (∀ rs, Instr.beq 0 0 0x8000#16 ≠ .jr rs) ∧ ∀ rd rs, Instr.beq 0 0 0x8000#16 ≠ .jalr rd rs := by decide

theorem witness_NextPcCases : ∃ t, exec (.add 0 1 2) (regs [(1, 0x7FFFFFFF#32), (2, 1#32)] start) = .next t ∧
    (Instr.add 0 1 2).isTransfer = false := exists_next (by decide)
theorem witness_NextPcCases_transfer : ∃ t, exec (.jr 0) start = .next t ∧
    (Instr.jr 0).isTransfer = true := exists_next (by decide)

theorem witness_InstructionStops_fault : exec (.lw 2 0#16 0) start = .fault .unwrittenLoad := rfl
theorem witness_InstructionStops_odd : exec (.movD 1 0) start = .refused .oddDoubleRegister := rfl
theorem witness_InstructionStops_cop0 : exec (.mfc0 2 9) start = .refused .cop0Register ∧
    exec (.mtc0 12 2) (user start) = .refused .cop0UserMode := ⟨rfl, rfl⟩

theorem witness_NarrowReadsSeeByteOrder : (0xFFFFFFFC#32).toNat % 4 = 0 ∧ start.platform.byteOrder = .big ∧
    (little start).platform.byteOrder = .little := by decide

theorem witness_HolesExpressEveryPredicate :
    start.platform.holes = [] ∧ (1 ∈ [1, 2, 4]) ∧ (2 ∈ [1, 2, 4]) ∧ (4 ∈ [1, 2, 4]) := by decide

/-- 1 and 2 and 3 in single precision, and the least normal number, 2^-126, which times 1 is itself. -/
theorem witness_FpExactResult_single : FpNumber singleFormat 0x3F800000 1 ∧ FpNumber singleFormat 0x40000000 2 ∧
    FpNumber singleFormat 0x40400000 3 ∧ FpOp.exact .add 1 2 = 3 ∧ FpOp.exact .sub 3 2 = 1 ∧ FpOp.exact .mul 1 3 = 3 ∧
    FpOp.exact .div 3 1 = 3 ∧ FpNumber singleFormat 0x00800000 (2 ^ (-126 : ℤ)) ∧
    FpOp.exact .mul (2 ^ (-126 : ℤ)) 1 = 2 ^ (-126 : ℤ) := by
  refine ⟨⟨0, 127, 0, ?_⟩, ⟨0, 128, 0, ?_⟩, ⟨0, 128, 0x400000, ?_⟩, ?_, ?_, ?_, ?_, ⟨0, 1, 0, ?_⟩, ?_⟩ <;>
    norm_num [singleFormat, FpOp.exact]
theorem witness_FpExactResult_double : FpNumber doubleFormat 0x3FF0000000000000 1 ∧
    FpNumber doubleFormat 0x4000000000000000 2 ∧
    FpNumber doubleFormat 0x4008000000000000 3 := by
  refine ⟨⟨0, 1023, 0, ?_⟩, ⟨0, 1024, 0, ?_⟩, ⟨0, 1024, 0x8000000000000, ?_⟩⟩ <;> norm_num [doubleFormat]
theorem witness_FpExactResult_cancel : FpNumber singleFormat 0xBF800000 (-1) ∧ FpOp.exact .add 1 (-1) = 0 ∧
    FpOp.exact .sub 1 1 = 0 ∧
    FpNumber doubleFormat 0xBFF0000000000000 (-1) := by
  refine ⟨⟨1, 127, 0, ?_⟩, ?_, ?_, ⟨1, 1023, 0, ?_⟩⟩ <;> norm_num [singleFormat, doubleFormat, FpOp.exact]

/-- A state with two operands in x[1] and x[2]. -/
def operands (a b : Word) : State := regs [(1, a), (2, b)] start

/-- A state with two operands in f[0] and f[30]. -/
def foperands (a b : Word) : State := fregs [(0, a), (30, b)] start

/-- The greatest sum, the least difference, the least sum with an immediate. -/
theorem witness_CheckedSumResult :
    ((operands 0x7FFFFFFE#32 1#32).x 1).toInt + ((operands 0x7FFFFFFE#32 1#32).x 2).toInt = 2 ^ 31 - 1 ∧
    ((operands 0x80000001#32 1#32).x 1).toInt - ((operands 0x80000001#32 1#32).x 2).toInt = -2 ^ 31 ∧
    ((operands 0x80008000#32 0#32).x 1).toInt + (0x8000#16).toInt = -2 ^ 31 := by decide
/-- One beyond them. -/
theorem witness_OverflowTraps : ((operands 0x7FFFFFFF#32 1#32).x 1).toInt + ((operands 0x7FFFFFFF#32 1#32).x 2).toInt > 2 ^ 31 - 1 ∧
    ((operands 0x80000000#32 1#32).x 1).toInt - ((operands 0x80000000#32 1#32).x 2).toInt < -2 ^ 31 ∧
    ((operands 0x80007FFF#32 0#32).x 1).toInt + (0x8000#16).toInt < -2 ^ 31 := by decide

/-- Beside the open case of DIV on either side: dividend -2^31 + 1 by -1, and -2^31 by 1; for DIVU a divisor of 1. -/
theorem witness_QuotientResult : ((operands 0x80000001#32 0xFFFFFFFF#32).x 2).toInt ≠ 0 ∧
    ¬ (((operands 0x80000001#32 0xFFFFFFFF#32).x 1).toInt = -2 ^ 31 ∧
    ((operands 0x80000001#32 0xFFFFFFFF#32).x 2).toInt = -1) ∧
    ((operands 0x80000000#32 1#32).x 2).toInt ≠ 0 ∧
    ¬ (((operands 0x80000000#32 1#32).x 1).toInt = -2 ^ 31 ∧ ((operands 0x80000000#32 1#32).x 2).toInt = -1) ∧
    ((operands 0x80000000#32 1#32).x 2).toNat ≠ 0 := by decide
theorem witness_OpenDivisionCompletes : (operands 7#32 0#32).x 2 = 0#32 ∧
    (operands 0x80000000#32 0xFFFFFFFF#32).x 1 = 0x80000000#32 ∧
    (operands 0x80000000#32 0xFFFFFFFF#32).x 2 = 0xFFFFFFFF#32 := by decide

theorem witness_LoadWordResult : (lastWord.x 0 + (0xFFFC#16).signExtend 32).toNat = 0xFFFFFFFC ∧
    legalAddr lastWord.platform lastWord.mode 0xFFFFFFFC#32 4 .load = true ∧
    MemoryHolds lastWord 0xFFFFFFFC [0x00#8, 0x22#8, 0x18#8, 0x20#8] := by unfold MemoryHolds; decide
theorem witness_NarrowLoadResult : (lastWord.x 0 + (0xFFFF#16).signExtend 32).toNat = 0xFFFFFFFF ∧
    legalAddr lastWord.platform lastWord.mode 0xFFFFFFFF#32 1 .load = true ∧ MemoryHolds lastWord 0xFFFFFFFF [0x20#8] ∧
    (lastWord.x 0 + (0xFFFE#16).signExtend 32).toNat = 0xFFFFFFFE ∧
    legalAddr lastWord.platform lastWord.mode 0xFFFFFFFE#32 2 .load = true ∧
    MemoryHolds lastWord 0xFFFFFFFE [0x18#8, 0x20#8] := by
  unfold MemoryHolds; decide

theorem witness_IllegalAccessRaises : (Instr.lw 2 3#16 0).loadAccess = some (0, 3#16, 4) ∧
    (start.x 0 + (3#16).signExtend 32).toNat % 4 ≠ 0 ∧
    (Instr.sh 2 1#16 0).storeAccess = some (0, 1#16, 2) ∧ (start.x 0 + (1#16).signExtend 32).toNat % 2 ≠ 0 := by decide
theorem witness_IllegalAccessRaises_hole : (Instr.lb 2 8#16 0).loadAccess = some (0, 8#16, 1) ∧
    (Instr.sb 2 8#16 0).storeAccess = some (0, 8#16, 1) ∧
    legalAddr (hole 4#32 8#32 start).platform .kernel 8#32 1 .load = false ∧
    legalAddr (hole 4#32 8#32 start).platform .kernel 8#32 1 .store = false ∧
    legalAddr (hole 4#32 8#32 start).platform .kernel 9#32 1 .load = true := by decide

theorem witness_UnwrittenLoadFaults : (Instr.lhu 2 0x1002#16 0).loadAccess = some (0, 0x1002#16, 2) ∧
    (start.x 0 + (0x1002#16).signExtend 32).toNat % 2 = 0 ∧
    legalAddr start.platform start.mode 0x1002#32 2 .load = true ∧ 1 < 2 ∧
    Memory.read? (load 0x1002 [0x80#8] start).mem (0x1002 + 1) = none := by decide

theorem witness_StoreResult : (start.x 0 + (0xFFFC#16).signExtend 32).toNat % 4 = 0 ∧
    legalAddr start.platform start.mode 0xFFFFFFFC#32 4 .store = true ∧
    legalAddr start.platform start.mode 0xFFFFFFFF#32 1 .store = true ∧
    (start.x 0 + (0xFFFE#16).signExtend 32).toNat % 2 = 0 ∧
    legalAddr start.platform start.mode 0xFFFFFFFE#32 2 .store = true := by decide

theorem witness_LuiResult : decodeWord (0b001111#6 ++ 0b00000#5 ++ 0x21234#21) = .ok (.lui 2 0x1234#16) := by decide
theorem witness_BranchZeroResult : decodeWord (0b000110#6 ++ 1#5 ++ 0b00000#5 ++ 0xFFFE#16) = .ok (.blez 1 0xFFFE#16) ∧
    decodeWord (0b000111#6 ++ 1#5 ++ 0b00000#5 ++ 0xFFFE#16) = .ok (.bgtz 1 0xFFFE#16) ∧
    decodeWord (0b000001#6 ++ 1#5 ++ 0b00000#5 ++ 0xFFFE#16) = .ok (.bltz 1 0xFFFE#16) := by decide
theorem witness_MovSResult :
    decodeWord (0b010001#6 ++ 0b00000#5 ++ 0b00000#5 ++ 0x22#10 ++ 0b000110#6) = .ok (.movS 2 1) := by decide

theorem witness_Cop0MoveResult : start.mode = .kernel ∧ namedCop0 12 ∧ namedCop0 13 ∧ namedCop0 14 := by decide
theorem witness_Cop0MoveRefused :
    ¬ namedCop0 11 ∧ ¬ namedCop0 15 ∧ (user start).mode = .user ∧ namedCop0 12 ∧ namedCop0 14 := by decide

theorem witness_SingleArithmeticResult :
    fpArith 32 singleFormat .add ((foperands 0x3F800000#32 0x40000000#32).f 0) ((foperands 0x3F800000#32 0x40000000#32).f 30) = .ok 0x40400000#32 ∧
    fpArith 32 singleFormat .sub ((foperands 0x3F800000#32 0x40000000#32).f 0) ((foperands 0x3F800000#32 0x40000000#32).f 30) = .ok 0xBF800000#32 ∧
    fpArith 32 singleFormat .mul ((foperands 0x40400000#32 0xC0000000#32).f 0) ((foperands 0x40400000#32 0xC0000000#32).f 30) = .ok 0xC0C00000#32 ∧
    fpArith 32 singleFormat .div ((foperands 0x40C00000#32 0x40000000#32).f 0) ((foperands 0x40C00000#32 0x40000000#32).f 30) = .ok 0x40400000#32 := by decide +kernel
theorem witness_DoubleArithmeticResult : (30 : FReg).val % 2 = 0 ∧ (0 : FReg).val % 2 = 0 ∧
    start.platform.pairOrder = .firstHigh ∧
    fpArith 64 doubleFormat .add ((foperands 0x3FF00000#32 0x40000000#32).f 0 ++ (foperands 0x3FF00000#32 0x40000000#32).f 1)
      ((foperands 0x3FF00000#32 0x40000000#32).f 30 ++ (foperands 0x3FF00000#32 0x40000000#32).f 31)
    = .ok 0x4008000000000000#64 ∧
    fpArith 64 doubleFormat .sub ((foperands 0x3FF00000#32 0x40000000#32).f 0 ++ (foperands 0x3FF00000#32 0x40000000#32).f 1)
      ((foperands 0x3FF00000#32 0x40000000#32).f 30 ++ (foperands 0x3FF00000#32 0x40000000#32).f 31)
    = .ok 0xBFF0000000000000#64 ∧
    fpArith 64 doubleFormat .mul ((foperands 0x40080000#32 0xC0000000#32).f 0 ++ (foperands 0x40080000#32 0xC0000000#32).f 1)
      ((foperands 0x40080000#32 0xC0000000#32).f 30 ++ (foperands 0x40080000#32 0xC0000000#32).f 31)
    = .ok 0xC018000000000000#64 ∧
    fpArith 64 doubleFormat .div ((foperands 0x40180000#32 0x40000000#32).f 0 ++ (foperands 0x40180000#32 0x40000000#32).f 1)
      ((foperands 0x40180000#32 0x40000000#32).f 30 ++ (foperands 0x40180000#32 0x40000000#32).f 31)
    = .ok 0x4008000000000000#64 := by
  decide +kernel
/-- The even numbers of O54, O55 and O58, and the odd ones of O56. -/
theorem witness_EvenAndOdd :
    (30 : FReg).val % 2 = 0 ∧ (0 : FReg).val % 2 = 0 ∧ (31 : FReg).val % 2 = 1 ∧ (1 : FReg).val % 2 = 1 := by decide

theorem witness_SoftwareReturnFromSyscall : (31 : Reg) ≠ 0 := by decide

end Sys2Proof.Tests
end

/-! PROOFS. O2 (30_encoding.md R95): a word that decodes is the word the encoder writes for its instruction, but for
SYSCALL, whose bits 25..6 are free. -/

namespace Sys2Proof

open Machine

-- A field read as an operand is written back as that field.

@[simp] theorem bits_rsOf (w : Word) : bits (rsOf w) = rsField w := rfl

@[simp] theorem bits_rtOf (w : Word) : bits (rtOf w) = rtField w := rfl

@[simp] theorem bits_rdOf (w : Word) : bits (rdOf w) = rdField w := rfl

@[simp] theorem bits_fdOf (w : Word) : bits (fdOf w) = saField w := rfl

@[simp] theorem saOf_eq_saField (w : Word) : saOf w = saField w := rfl

-- A layout filled with given fields is the word `w` exactly when these are the fields of `w`.

theorem eq_word_iff_fields {x w : Word} : x = w ↔ opField w = opField x ∧ rsField w = rsField x ∧
    rtField w = rtField x ∧ rdField w = rdField x ∧ saField w = saField x ∧ functField w = functField x := by
  constructor
  · rintro rfl
    simp
  · rintro ⟨hop, hrs, hrt, hrd, hsa, hfn⟩
    exact (word_eq_of_fields hop hrs hrt hrd hsa hfn).symm

theorem rType_eq_iff {rs rt rd sa : BitVec 5} {funct : BitVec 6} {w : Word} :
    rType rs rt rd sa funct = w ↔ opField w = 0b000000#6 ∧ rsField w = rs ∧ rtField w = rt ∧ rdField w = rd ∧
      saField w = sa ∧ functField w = funct := by
  simp [eq_word_iff_fields]

theorem fpType_eq_iff {fmt ft fs fd : BitVec 5} {funct : BitVec 6} {w : Word} :
    fpType fmt ft fs fd funct = w ↔ opField w = 0b010001#6 ∧ rsField w = fmt ∧ rtField w = ft ∧ rdField w = fs ∧
      saField w = fd ∧ functField w = funct := by
  simp [eq_word_iff_fields]

theorem cop0Type_eq_iff {selector rt cd : BitVec 5} {w : Word} :
    cop0Type selector rt cd = w ↔ opField w = 0b010000#6 ∧ rsField w = selector ∧ rtField w = rt ∧ rdField w = cd ∧
      saField w = 0#5 ∧ functField w = 0#6 := by
  simp [eq_word_iff_fields]

theorem iType_eq_iff {op : BitVec 6} {rs rt : BitVec 5} {imm : Half} {w : Word} :
    iType op rs rt imm = w ↔ opField w = op ∧ rsField w = rs ∧ rtField w = rt ∧ immOf w = imm := by
  constructor
  · rintro rfl
    simp
  · rintro ⟨rfl, rfl, rfl, rfl⟩
    have low (lo n : Nat) (h : lo + n ≤ 16) : w.extractLsb' lo n = (immOf w).extractLsb' lo n :=
      (BitVec.extractLsb'_extractLsb'_of_le h).symm
    simpa [eq_word_iff_fields] using ⟨low 11 5 (by decide), low 6 5 (by decide), low 0 6 (by decide)⟩

theorem jType_eq_iff {op : BitVec 6} {target : BitVec 26} {w : Word} :
    jType op target = w ↔ opField w = op ∧ targetOf w = target := by
  constructor
  · rintro rfl
    simp
  · rintro ⟨rfl, rfl⟩
    have low (lo n : Nat) (h : lo + n ≤ 26) : w.extractLsb' lo n = (targetOf w).extractLsb' lo n :=
      (BitVec.extractLsb'_extractLsb'_of_le h).symm
    simpa [eq_word_iff_fields] using ⟨low 21 5 (by decide), low 16 5 (by decide), low 11 5 (by decide),
      low 6 5 (by decide), low 0 6 (by decide)⟩

-- What the answers of the decoder's branches say.

@[simp] theorem illegal_ne_ok (w : Word) (i : Instr) : illegal w ≠ .ok i := nofun

/-- A branch that checks its fixed fields answers an instruction only where they are as the row draws them. -/
@[simp] theorem guarded_eq_ok {w : Word} {c : Prop} [Decidable c] {i j : Instr} :
    (if c then .ok j else illegal w) = .ok i ↔ c ∧ j = i := by
  split <;> simp [*]

-- Encoding inverts each part of the decoder.

/-- `op` = 000000: the one funct that does not fix its instruction's word is SYSCALL's. -/
theorem encode_of_decodeSpecial {w : Word} {i : Instr} (hop : opField w = 0b000000#6) (h : decodeSpecial w = .ok i) :
    encode i = w ∨ i = .syscall ∧ functField w = 0b001100#6 := by
  unfold decodeSpecial at h
  split at h
  -- The ninth row is SYSCALL, which reads no other field; the last is no row; the others check their fixed fields.
  case h_9 hfn =>
    cases h
    exact .inr ⟨rfl, hfn⟩
  case h_26 => cases h
  all_goals
    obtain ⟨hfixed, rfl⟩ := guarded_eq_ok.mp h
    left
    simp [encode, rType_eq_iff, *]

theorem encode_of_decodeCop0 {w : Word} {i : Instr} (hop : opField w = 0b010000#6) (h : decodeCop0 w = .ok i) :
    encode i = w := by
  unfold decodeCop0 at h
  split at h
  case isFalse => cases h
  case isTrue hlow =>
    split at h <;> cases h <;> simp [encode, cop0Type_eq_iff, *]

theorem encode_of_decodeSingle {w : Word} {i : Instr} (hop : opField w = 0b010001#6) (hfmt : rsField w = Config.fmtS)
    (h : decodeSingle w = .ok i) : encode i = w := by
  unfold decodeSingle at h
  split at h
  case h_5 =>
    obtain ⟨hft, rfl⟩ := guarded_eq_ok.mp h
    simp [encode, fpType_eq_iff, *]
  all_goals cases h <;> simp [encode, fpType_eq_iff, *]

theorem encode_of_decodeDouble {w : Word} {i : Instr} (hop : opField w = 0b010001#6) (hfmt : rsField w = Config.fmtD)
    (h : decodeDouble w = .ok i) : encode i = w := by
  unfold decodeDouble at h
  split at h
  case h_5 =>
    obtain ⟨hft, rfl⟩ := guarded_eq_ok.mp h
    simp [encode, fpType_eq_iff, *]
  all_goals cases h <;> simp [encode, fpType_eq_iff, *]

theorem encode_of_decodeFloat {w : Word} {i : Instr} (hop : opField w = 0b010001#6) (h : decodeFloat w = .ok i) :
    encode i = w := by
  unfold decodeFloat at h
  split at h
  case isTrue hS => exact encode_of_decodeSingle hop hS h
  case isFalse =>
    split at h
    case isTrue hD => exact encode_of_decodeDouble hop hD h
    case isFalse => cases h

/-- A word that decodes is the encoder's word for its instruction, or a SYSCALL with any bits 25..6 (R95). -/
theorem encode_of_decodeWord {w : Word} {i : Instr} (h : decodeWord w = .ok i) :
    encode i = w ∨ i = .syscall ∧ opField w = 0b000000#6 ∧ functField w = 0b001100#6 := by
  unfold decodeWord at h
  split at h
  -- Op-codes 0, 16 and 17 select further; BLTZ, BLEZ, BGTZ and LUI check a fixed field; the others read every field.
  case h_1 hop => exact (encode_of_decodeSpecial hop h).imp_right fun ⟨hi, hfn⟩ => ⟨hi, hop, hfn⟩
  case h_17 hop => exact .inl (encode_of_decodeCop0 hop h)
  case h_18 hop => exact .inl (encode_of_decodeFloat hop h)
  case h_2 | h_7 | h_8 | h_16 =>
    obtain ⟨hfixed, rfl⟩ := guarded_eq_ok.mp h
    left
    simp [encode, iType_eq_iff, *]
  all_goals cases h <;> simp [encode, iType_eq_iff, jType_eq_iff, *]

-- SYSCALL and its ignored bits.

theorem decodeWord_eq_syscall_iff_fields {w : Word} :
    decodeWord w = .ok .syscall ↔ opField w = 0b000000#6 ∧ functField w = 0b001100#6 := by
  constructor
  · intro h
    rcases encode_of_decodeWord h with rfl | ⟨-, hfields⟩
    · simp [encode]
    · exact hfields
  · rintro ⟨hop, hfn⟩
    simp [decodeWord, decodeSpecial, hop, hfn]

theorem op_funct_eq_iff_exists_append {w : Word} {op funct : BitVec 6} :
    opField w = op ∧ functField w = funct ↔ ∃ mid : BitVec 20, w = op ++ mid ++ funct := by
  constructor
  · rintro ⟨rfl, rfl⟩
    have high : opField w ++ w.extractLsb' 6 20 = w.extractLsb' 6 26 :=
      BitVec.extractLsb'_append_extractLsb'_eq_extractLsb' rfl
    refine ⟨w.extractLsb' 6 20, ?_⟩
    rw [high]
    exact (BitVec.extractLsb'_append_extractLsb' (w := 26) (len := 6) (x := w)).symm
  · rintro ⟨mid, rfl⟩
    have hop : (op ++ mid ++ funct).extractLsb' 26 6 = (op ++ mid).extractLsb' 20 6 :=
      BitVec.extractLsb'_append_eq_of_le (by decide)
    exact ⟨hop.trans BitVec.extractLsb'_append_eq_left, BitVec.extractLsb'_append_eq_right⟩

theorem decodeWord_eq_syscall_iff {w : Word} :
    decodeWord w = .ok .syscall ↔ ∃ ignored : BitVec 20, w = 0b000000#6 ++ ignored ++ 0b001100#6 :=
  decodeWord_eq_syscall_iff_fields.trans op_funct_eq_iff_exists_append

/-- But for SYSCALL, the instruction determines its word. -/
theorem encode_of_decodeWord_of_ne_syscall {w : Word} {i : Instr} (h : decodeWord w = .ok i) (hi : i ≠ .syscall) :
    encode i = w :=
  (encode_of_decodeWord h).resolve_right fun ⟨hsys, _⟩ => hi hsys

/-- Settles O2: a word other than SYSCALL's is the encoder's word for its instruction, and the step runs what the word
decodes to, which the ignored bits do not change. -/
theorem onlySyscallHasIgnoredBits : Obligations.OnlySyscallHasIgnoredBits := by
  refine ⟨?_, fun w => decodeWord_eq_syscall_iff, ?_⟩
  · intro v w i hv hw hi
    exact (encode_of_decodeWord_of_ne_syscall hv hi).symm.trans (encode_of_decodeWord_of_ne_syscall hw hi)
  · intro s ignored hfetch
    exact step_of_fetch hfetch (decodeWord_eq_syscall_iff.mpr ⟨ignored, rfl⟩)

end Sys2Proof

/-! PROOFS. O45 (43_load_store_lui.md R161): LUI's word and its result. -/

namespace Sys2Proof

open Machine

-- The fields of a word written as a concatenation that begins with `op` and bits 25..21.

@[simp] theorem opField_append (op : BitVec 6) (rs : BitVec 5) (low : BitVec 21) : opField (op ++ rs ++ low) = op :=
  (BitVec.extractLsb'_append_eq_of_le (by decide)).trans BitVec.extractLsb'_append_eq_left

@[simp] theorem rsField_append (op : BitVec 6) (rs : BitVec 5) (low : BitVec 21) : rsField (op ++ rs ++ low) = rs :=
  (BitVec.extractLsb'_append_eq_of_le (by decide)).trans BitVec.extractLsb'_append_eq_right

/-- The I-type layout is its four fields side by side (R82). -/
theorem iType_eq_append (op : BitVec 6) (rs rt : BitVec 5) (imm : Half) : iType op rs rt imm = op ++ rs ++ rt ++ imm := by
  have split : op ++ rs ++ rt ++ imm = op ++ rs ++ (rt ++ imm : BitVec 21) := BitVec.append_assoc
  have hrt : rtField (op ++ rs ++ rt ++ imm) = rt :=
    (BitVec.extractLsb'_append_eq_of_le (by decide)).trans BitVec.extractLsb'_append_eq_right
  have himm : immOf (op ++ rs ++ rt ++ imm) = imm := BitVec.extractLsb'_append_eq_right
  refine iType_eq_iff.mpr ⟨?_, ?_, hrt, himm⟩
  · rw [split, opField_append]
  · rw [split, rsField_append]

/-- Under LUI's op-code a word decodes exactly where bits 25..21 are 0, and then to LUI (R87, R94). -/
theorem decodeWord_of_opField_lui {w : Word} {i : Instr} (hop : opField w = 0b001111#6) :
    decodeWord w = .ok i ↔ rsField w = 0#5 ∧ .lui (rtOf w) (immOf w) = i := by
  simp [decodeWord, hop]

/-- Settles O45: LUI's word is the I-type layout with 0 in bits 25..21, which its op-code's branch of the decoder checks;
its result is a register write of the immediate in the upper half. -/
theorem luiResult : Obligations.LuiResult := by
  intro s rt imm
  refine ⟨iType_eq_append _ _ _ _, ?_, ?_⟩
  · rintro rs low ⟨i, hdec⟩
    obtain ⟨hrs, -⟩ := (decodeWord_of_opField_lui (opField_append _ rs low)).mp hdec
    exact (rsField_append _ rs low).symm.trans hrs
  · rw [exec_lui, execLui, upperImm_eq]
    exact s.finishX_spec rt (imm ++ 0#16)

end Sys2Proof

/-! PROOFS. O46, O47 (44_branch_jump.md R171 to R175): the conditional branches, their words and their results. -/

namespace Sys2Proof

open Machine

/-- A conditional branch, with the condition as a proposition and the target as a sum (R170). -/
theorem Machine.State.branchIf_decide_spec (s : State) (cond : Prop) [Decidable cond] (imm : Half) :
    ∃ t, s.branchIf (decide cond) imm = .next t ∧ OnlyPc s t ∧
      t.pc = if cond then s.pc + 4#32 + BitVec.ofInt 32 (imm.toInt * 4) else s.pc + 4#32 := by
  simpa only [decide_eq_true_eq, branchTarget_eq] using s.branchIf_spec (decide cond) imm

/-- Under the op-codes of BLEZ, BGTZ and BLTZ a word decodes only where bits 20..16 are 0 (R87, R94). -/
theorem rtField_eq_zero_of_decodeWord {w : Word} {i : Instr}
    (hop : opField w = 0b000110#6 ∨ opField w = 0b000111#6 ∨ opField w = 0b000001#6) (hdec : decodeWord w = .ok i) :
    rtField w = 0b00000#5 := by
  have hguarded : ∃ j, (if rtField w = 0#5 then .ok j else illegal w) = .ok i := by
    rcases hop with hblez | hbgtz | hbltz
    · exact ⟨.blez (rsOf w) (immOf w), by simpa only [decodeWord, hblez] using hdec⟩
    · exact ⟨.bgtz (rsOf w) (immOf w), by simpa only [decodeWord, hbgtz] using hdec⟩
    · exact ⟨.bltz (rsOf w) (immOf w), by simpa only [decodeWord, hbltz] using hdec⟩
  obtain ⟨j, hj⟩ := hguarded
  exact (guarded_eq_ok.mp hj).1

/-- Settles O46: both words are the I-type layout; both results are the shared branch, BNE's with the condition
negated. -/
theorem branchEqualResult : Obligations.BranchEqualResult := by
  intro s rs rt imm
  refine ⟨iType_eq_append _ _ _ _, iType_eq_append _ _ _ _, ?_, ?_⟩
  · rw [exec_beq, execBeq]
    exact s.branchIf_decide_spec (s.x rs = s.x rt) imm
  · rw [exec_bne, execBne]
    simpa only [ne_eq, ite_not] using s.branchIf_decide_spec (s.x rs ≠ s.x rt) imm

/-- Settles O47: the words are the I-type layout with 0 in bits 20..16, which the decoder checks under the three op-codes;
the results are the shared branch on the signed comparison. -/
theorem branchZeroResult : Obligations.BranchZeroResult := by
  intro s rs imm
  refine ⟨iType_eq_append _ _ _ _, iType_eq_append _ _ _ _, iType_eq_append _ _ _ _, ?_, ?_, ?_, ?_⟩
  · rintro op r f k hop ⟨i, hdec⟩
    rw [← iType_eq_append] at hdec
    have hrt := rtField_eq_zero_of_decodeWord (by simpa using hop) hdec
    rwa [rtField_iType] at hrt
  · rw [exec_blez, execBlez]
    exact s.branchIf_decide_spec ((s.x rs).toInt ≤ 0) imm
  · rw [exec_bgtz, execBgtz]
    exact s.branchIf_decide_spec ((s.x rs).toInt > 0) imm
  · rw [exec_bltz, execBltz]
    exact s.branchIf_decide_spec ((s.x rs).toInt < 0) imm

end Sys2Proof

/-! PROOFS. O57 (46_float.md R211): MOV.S's word and its result. -/

namespace Sys2Proof

open Machine

/-- A word is its fields side by side (R81). -/
theorem append_fields_eq_self (w : Word) :
    opField w ++ rsField w ++ rtField w ++ rdField w ++ saField w ++ functField w = w := by
  have hrs : opField w ++ rsField w = w.extractLsb' 21 11 := BitVec.extractLsb'_append_extractLsb'_eq_extractLsb' rfl
  have hrt : w.extractLsb' 21 11 ++ rtField w = w.extractLsb' 16 16 :=
    BitVec.extractLsb'_append_extractLsb'_eq_extractLsb' rfl
  have hrd : w.extractLsb' 16 16 ++ rdField w = w.extractLsb' 11 21 :=
    BitVec.extractLsb'_append_extractLsb'_eq_extractLsb' rfl
  have hsa : w.extractLsb' 11 21 ++ saField w = w.extractLsb' 6 26 :=
    BitVec.extractLsb'_append_extractLsb'_eq_extractLsb' rfl
  rw [hrs, hrt, hrd, hsa]
  exact BitVec.extractLsb'_append_extractLsb' (w := 26) (len := 6) (x := w)

/-- The floating-point register layout is its six fields side by side (R85). -/
theorem fpType_eq_append (fmt ft fs fd : BitVec 5) (funct : BitVec 6) :
    fpType fmt ft fs fd funct = 0b010001#6 ++ fmt ++ ft ++ fs ++ fd ++ funct := by
  simpa using (append_fields_eq_self (fpType fmt ft fs fd funct)).symm

/-- Any ten bits between `ft` and `funct` are an `fs` and an `fd` (R85). -/
theorem fpType_extractLsb'_eq_append (fmt ft : BitVec 5) (mid : BitVec 10) (funct : BitVec 6) :
    fpType fmt ft (mid.extractLsb' 5 5) (mid.extractLsb' 0 5) funct = 0b010001#6 ++ fmt ++ ft ++ mid ++ funct := by
  have hmid : mid.extractLsb' 5 5 ++ mid.extractLsb' 0 5 = mid :=
    BitVec.extractLsb'_append_extractLsb' (w := 5) (len := 5) (x := mid)
  calc fpType fmt ft (mid.extractLsb' 5 5) (mid.extractLsb' 0 5) funct
      _ = 0b010001#6 ++ fmt ++ ft ++ mid.extractLsb' 5 5 ++ mid.extractLsb' 0 5 ++ funct := fpType_eq_append _ _ _ _ _
      _ = 0b010001#6 ++ fmt ++ ft ++ (mid.extractLsb' 5 5 ++ mid.extractLsb' 0 5) ++ funct :=
        congrArg (· ++ funct) BitVec.append_assoc
      _ = 0b010001#6 ++ fmt ++ ft ++ mid ++ funct := by rw [hmid]

/-- A word with MOV.S's op-code, `fmt` and `funct` decodes exactly where bits 20..16 are 0, and then to MOV.S (R90,
R94). -/
theorem decodeWord_of_fields_movS {w : Word} {i : Instr} (hop : opField w = 0b010001#6) (hfmt : rsField w = Config.fmtS)
    (hfn : functField w = 0b000110#6) : decodeWord w = .ok i ↔ rtField w = 0#5 ∧ .movS (fdOf w) (rdOf w) = i := by
  simp [decodeWord, decodeFloat, decodeSingle, hop, hfmt, hfn]

/-- Settles O57: MOV.S's word is the floating-point register layout with 0 in bits 20..16, which its branch of the
decoder checks; its result is a write of one floating-point register. -/
theorem movSResult : Obligations.MovSResult := by
  intro s fd fs
  refine ⟨fpType_eq_append _ _ _ _ _, ?_, ?_⟩
  · rintro ft mid ⟨i, hdec⟩
    rw [← fpType_extractLsb'_eq_append] at hdec
    obtain ⟨hft, -⟩ := (decodeWord_of_fields_movS (by simp) (by simp [Config.fmtS]) (by simp)).mp hdec
    rwa [rtField_fpType] at hft
  · rw [exec_movS, execMovS]
    exact ⟨_, rfl, s.setF_advance_spec fd (s.f fs)⟩

end Sys2Proof

/-! PROOFS. O1 (30_encoding.md R81 to R92): the decoder inverts the encoder, on words and on bytes. -/

namespace Sys2Proof

open Machine

-- A layout with a fixed op-code, or `fmt`, is decoded by that op-code's, or `fmt`'s, part of the decoder.

theorem decodeWord_rType (rs rt rd sa : BitVec 5) (funct : BitVec 6) :
    decodeWord (rType rs rt rd sa funct) = decodeSpecial (rType rs rt rd sa funct) := by
  simp [decodeWord]

theorem decodeWord_cop0Type (selector rt cd : BitVec 5) :
    decodeWord (cop0Type selector rt cd) = decodeCop0 (cop0Type selector rt cd) := by
  simp [decodeWord]

theorem decodeWord_fpType_fmtS (ft fs fd : BitVec 5) (funct : BitVec 6) :
    decodeWord (fpType Config.fmtS ft fs fd funct) = decodeSingle (fpType Config.fmtS ft fs fd funct) := by
  simp [decodeWord, decodeFloat]

theorem decodeWord_fpType_fmtD (ft fs fd : BitVec 5) (funct : BitVec 6) :
    decodeWord (fpType Config.fmtD ft fs fd funct) = decodeDouble (fpType Config.fmtD ft fs fd funct) := by
  simp [decodeWord, decodeFloat, show Config.fmtD ≠ Config.fmtS by decide]

theorem decodeWord_encode (i : Instr) : decodeWord (encode i) = .ok i := by
  cases i
  case add | addu | sub | subu | mult | multu | div | divu | slt | sltu | and | or | nor | xor | sll | sllv | srl
      | srlv | sra | srav | jr | jalr | mfhi | mflo | syscall =>
    simp [encode, decodeWord_rType, decodeSpecial, rsOf, rtOf, rdOf]
  case mfc0 | mtc0 =>
    simp [encode, decodeWord_cop0Type, decodeCop0, rtOf, rdOf]
  case addS | subS | mulS | divS | movS =>
    simp [encode, decodeWord_fpType_fmtS, decodeSingle, rtOf, rdOf, fdOf]
  case addD | subD | mulD | divD | movD =>
    simp [encode, decodeWord_fpType_fmtD, decodeDouble, rtOf, rdOf, fdOf]
  -- The other op-codes are one row each, of the I-type or the jump layout.
  all_goals simp [encode, decodeWord, rsOf, rtOf]

/-- The bytes of a word, in either byte order, decode as the word. -/
theorem decode_splitWord_append (o : ByteOrder) (w : Word) (rest : List Byte) :
    decode o (splitWord o w ++ rest) = decodeWord w := by
  obtain ⟨b0, b1, b2, b3, hsplit, hjoin⟩ := exists_splitWord o w
  simp [hsplit, decode, hjoin]

/-- Settles O1: each layout is read back by its part of the decoder, and splitting a word into bytes is undone by
joining them. -/
theorem decodeInvertsEncode : Obligations.DecodeInvertsEncode := fun i =>
  ⟨decodeWord_encode i, fun o rest => (decode_splitWord_append o (encode i) rest).trans (decodeWord_encode i)⟩

end Sys2Proof

/-! PROOFS. O3, O5 (30_encoding.md sections 3 and 4): the rows of the opcode table and the decoder. -/

namespace Sys2Proof

open Machine Laws

-- The fields of a mask or a match written as a number, and what it is to match a field that is fixed.

@[simp] theorem opField_ofNat (n : Nat) : opField (BitVec.ofNat 32 n) = BitVec.ofNat 6 ((n % 2 ^ 32) >>> 26) := by
  rw [opField, BitVec.extractLsb', BitVec.toNat_ofNat]

@[simp] theorem rsField_ofNat (n : Nat) : rsField (BitVec.ofNat 32 n) = BitVec.ofNat 5 ((n % 2 ^ 32) >>> 21) := by
  rw [rsField, BitVec.extractLsb', BitVec.toNat_ofNat]

@[simp] theorem rtField_ofNat (n : Nat) : rtField (BitVec.ofNat 32 n) = BitVec.ofNat 5 ((n % 2 ^ 32) >>> 16) := by
  rw [rtField, BitVec.extractLsb', BitVec.toNat_ofNat]

@[simp] theorem rdField_ofNat (n : Nat) : rdField (BitVec.ofNat 32 n) = BitVec.ofNat 5 ((n % 2 ^ 32) >>> 11) := by
  rw [rdField, BitVec.extractLsb', BitVec.toNat_ofNat]

@[simp] theorem saField_ofNat (n : Nat) : saField (BitVec.ofNat 32 n) = BitVec.ofNat 5 ((n % 2 ^ 32) >>> 6) := by
  rw [saField, BitVec.extractLsb', BitVec.toNat_ofNat]

@[simp] theorem functField_ofNat (n : Nat) : functField (BitVec.ofNat 32 n) = BitVec.ofNat 6 ((n % 2 ^ 32) >>> 0) := by
  rw [functField, BitVec.extractLsb', BitVec.toNat_ofNat]

@[simp] theorem and_all_six (v : BitVec 6) : v &&& 63#6 = v := BitVec.and_allOnes

@[simp] theorem and_all_five (v : BitVec 5) : v &&& 31#5 = v := BitVec.and_allOnes

-- From a row to the decoder.

/-- A word that matches the row of `i` decodes, to an instruction of that row. -/
theorem decodeWord_of_matches_row {w : Word} {i : Instr} (h : w &&& i.row.1 = i.row.2) :
    ∃ j, decodeWord w = .ok j ∧ j.row = i.row := by
  have hfields := fields_of_and_eq h
  cases i <;> simp [Instr.row] at hfields
  case add | addu | sub | subu | mult | multu | div | divu | slt | sltu | and | or | nor | xor | sll | sllv | srl
      | srlv | sra | srav | jr | jalr | mfhi | mflo =>
    simp [decodeWord, decodeSpecial, hfields]
    rfl
  case syscall => simp [decodeWord, decodeSpecial, hfields]
  case mfc0 | mtc0 =>
    simp [decodeWord, decodeCop0, hfields]
    rfl
  case addS | subS | mulS | divS | movS =>
    simp [decodeWord, decodeFloat, decodeSingle, Config.fmtS, hfields]
    rfl
  case addD | subD | mulD | divD | movD =>
    simp [decodeWord, decodeFloat, decodeDouble, Config.fmtS, Config.fmtD, hfields]
    rfl
  -- The other op-codes are one row each.
  all_goals
    simp [decodeWord, hfields]
    rfl

/-- One instruction of each row, in the table's order. -/
def rowExamples : List Instr :=
  [.add 0 0 0, .addu 0 0 0, .sub 0 0 0, .subu 0 0 0, .mult 0 0, .multu 0 0, .div 0 0, .divu 0 0, .slt 0 0 0,
   .sltu 0 0 0, .and 0 0 0, .or 0 0 0, .nor 0 0 0, .xor 0 0 0, .addi 0 0 0, .addiu 0 0 0, .slti 0 0 0, .sltiu 0 0 0,
   .andi 0 0 0, .ori 0 0 0, .xori 0 0 0, .sll 0 0 0, .sllv 0 0 0, .srl 0 0 0, .srlv 0 0 0, .sra 0 0 0, .srav 0 0 0,
   .lw 0 0 0, .sw 0 0 0, .lbu 0 0 0, .lb 0 0 0, .lhu 0 0 0, .lh 0 0 0, .sb 0 0 0, .sh 0 0 0, .lwc1 0 0 0, .swc1 0 0 0,
   .lui 0 0, .beq 0 0 0, .bne 0 0 0, .blez 0 0, .bgtz 0 0, .bltz 0 0, .j 0, .jal 0, .jr 0, .jalr 0 0, .mfhi 0, .mflo 0,
   .mfc0 0 0, .mtc0 0 0, .addS 0 0 0, .addD 0 0 0, .subS 0 0 0, .subD 0 0 0, .mulS 0 0 0, .mulD 0 0 0, .divS 0 0 0,
   .divD 0 0 0, .movS 0 0, .movD 0 0, .syscall]

theorem opcodeTable_eq_map_row : opcodeTable = rowExamples.map Instr.row := rfl

theorem exists_row_of_mem_opcodeTable {r : Word × Word} (h : r ∈ opcodeTable) : ∃ i : Instr, i.row = r := by
  rw [opcodeTable_eq_map_row] at h
  obtain ⟨i, -, hi⟩ := List.mem_map.mp h
  exact ⟨i, hi⟩

-- From the decoder to a row.

/-- The row of each instruction is found in the table, whatever the operands. -/
theorem row_mem_opcodeTable (i : Instr) : i.row ∈ opcodeTable := by
  cases i <;> exact List.mem_of_elem_eq_true rfl

theorem encode_matches_row (i : Instr) : encode i &&& i.row.1 = i.row.2 :=
  match i with
  | .add .. => EncodesItsRow.add ..
  | .addu .. => EncodesItsRow.addu ..
  | .sub .. => EncodesItsRow.sub ..
  | .subu .. => EncodesItsRow.subu ..
  | .mult .. => EncodesItsRow.mult ..
  | .multu .. => EncodesItsRow.multu ..
  | .div .. => EncodesItsRow.div ..
  | .divu .. => EncodesItsRow.divu ..
  | .slt .. => EncodesItsRow.slt ..
  | .sltu .. => EncodesItsRow.sltu ..
  | .and .. => EncodesItsRow.and ..
  | .or .. => EncodesItsRow.or ..
  | .nor .. => EncodesItsRow.nor ..
  | .xor .. => EncodesItsRow.xor ..
  | .addi .. => EncodesItsRow.addi ..
  | .addiu .. => EncodesItsRow.addiu ..
  | .slti .. => EncodesItsRow.slti ..
  | .sltiu .. => EncodesItsRow.sltiu ..
  | .andi .. => EncodesItsRow.andi ..
  | .ori .. => EncodesItsRow.ori ..
  | .xori .. => EncodesItsRow.xori ..
  | .sll .. => EncodesItsRow.sll ..
  | .sllv .. => EncodesItsRow.sllv ..
  | .srl .. => EncodesItsRow.srl ..
  | .srlv .. => EncodesItsRow.srlv ..
  | .sra .. => EncodesItsRow.sra ..
  | .srav .. => EncodesItsRow.srav ..
  | .lw .. => EncodesItsRow.lw ..
  | .sw .. => EncodesItsRow.sw ..
  | .lbu .. => EncodesItsRow.lbu ..
  | .lb .. => EncodesItsRow.lb ..
  | .lhu .. => EncodesItsRow.lhu ..
  | .lh .. => EncodesItsRow.lh ..
  | .sb .. => EncodesItsRow.sb ..
  | .sh .. => EncodesItsRow.sh ..
  | .lwc1 .. => EncodesItsRow.lwc1 ..
  | .swc1 .. => EncodesItsRow.swc1 ..
  | .lui .. => EncodesItsRow.lui ..
  | .beq .. => EncodesItsRow.beq ..
  | .bne .. => EncodesItsRow.bne ..
  | .blez .. => EncodesItsRow.blez ..
  | .bgtz .. => EncodesItsRow.bgtz ..
  | .bltz .. => EncodesItsRow.bltz ..
  | .j .. => EncodesItsRow.j ..
  | .jal .. => EncodesItsRow.jal ..
  | .jr .. => EncodesItsRow.jr ..
  | .jalr .. => EncodesItsRow.jalr ..
  | .mfhi .. => EncodesItsRow.mfhi ..
  | .mflo .. => EncodesItsRow.mflo ..
  | .mfc0 .. => EncodesItsRow.mfc0 ..
  | .mtc0 .. => EncodesItsRow.mtc0 ..
  | .addS .. => EncodesItsRow.addS ..
  | .addD .. => EncodesItsRow.addD ..
  | .subS .. => EncodesItsRow.subS ..
  | .subD .. => EncodesItsRow.subD ..
  | .mulS .. => EncodesItsRow.mulS ..
  | .mulD .. => EncodesItsRow.mulD ..
  | .divS .. => EncodesItsRow.divS ..
  | .divD .. => EncodesItsRow.divD ..
  | .movS .. => EncodesItsRow.movS ..
  | .movD .. => EncodesItsRow.movD ..
  | .syscall => EncodesItsRow.syscall

/-- SYSCALL's row leaves bits 25..6 free. -/
theorem matches_row_syscall {w : Word} (hop : opField w = 0b000000#6) (hfn : functField w = 0b001100#6) :
    w &&& Instr.syscall.row.1 = Instr.syscall.row.2 := by
  apply and_eq_of_fields <;> simp [Instr.row, hop, hfn]

theorem matches_row_of_decodeWord {w : Word} {i : Instr} (h : decodeWord w = .ok i) : w &&& i.row.1 = i.row.2 := by
  rcases encode_of_decodeWord h with rfl | ⟨rfl, hop, hfn⟩
  · exact encode_matches_row i
  · exact matches_row_syscall hop hfn

/-- Settles O3: a word that matches a row decodes to an instruction of it, and a word that decodes matches the row of
its instruction. -/
theorem wordDecodesIffRowMatches : Obligations.WordDecodesIffRowMatches := by
  refine fun w => ⟨⟨?_, ?_⟩, fun i h => ⟨row_mem_opcodeTable i, matches_row_of_decodeWord h⟩⟩
  · rintro ⟨i, h⟩
    exact ⟨i.row, row_mem_opcodeTable i, matches_row_of_decodeWord h⟩
  · rintro ⟨r, hr, h⟩
    obtain ⟨i, rfl⟩ := exists_row_of_mem_opcodeTable hr
    obtain ⟨j, hdec, -⟩ := decodeWord_of_matches_row h
    exact ⟨j, hdec⟩

-- The rows are disjoint.

/-- The rows a word matches are all the row of the instruction it decodes to. -/
theorem row_eq_of_matches_rows {w : Word} {r q : Word × Word} (hr : r ∈ opcodeTable) (hq : q ∈ opcodeTable)
    (hwr : w &&& r.1 = r.2) (hwq : w &&& q.1 = q.2) : r = q := by
  obtain ⟨i, rfl⟩ := exists_row_of_mem_opcodeTable hr
  obtain ⟨k, rfl⟩ := exists_row_of_mem_opcodeTable hq
  obtain ⟨j, hdec, hji⟩ := decodeWord_of_matches_row hwr
  obtain ⟨j', hdec', hjk⟩ := decodeWord_of_matches_row hwq
  obtain rfl : j = j' := Except.ok.inj (hdec.symm.trans hdec')
  exact hji.symm.trans hjk

theorem opcodeTable_nodup : opcodeTable.Nodup := by decide

/-- Settles O5: two different rows that one word matches would be the row of one instruction. -/
theorem opcodeRowsDisjoint : Obligations.OpcodeRowsDisjoint := by
  refine ⟨rfl, opcodeTable_nodup.imp_of_mem ?_⟩
  rintro r q hr hq hne w ⟨hwr, hwq⟩
  exact hne (row_eq_of_matches_rows hr hq hwr hwq)

end Sys2Proof

/-! PROOFS. O13 to O22 (10_state.md, 60_exceptions.md section 4): what every instruction and every step keeps. Each is a
case analysis on `Effect`, which lists what an instruction's next state can be, and then on `step_cases`. -/

namespace Sys2Proof

open Machine

-- Exception entry.

theorem Machine.State.takeException_spec (s : State) (e : Exc) : EntersException s (s.takeException e) e.code := by
  obtain ⟨t, ht, hentry⟩ := s.raise_spec e
  rwa [State.raise_eq_next.mp ht] at hentry

/-- The codes an instruction can raise: all but that of the decoder's exception (R230). -/
theorem Machine.Exc.code_mem_of_ne_illegalOpcode {e : Exc} (he : e ≠ .illegalOpcode) :
    e.code ∈ [4#32, 8#32, 12#32, 15#32] := by
  cases e <;> simp [Exc.code] at he ⊢

-- The invariant (O13).

theorem wf_of_kept {s t : State} (hs : s.wf) (hmem : t.mem = s.mem) (hstored : t.stored = s.stored)
    (hslot : t.gprs[0] = s.gprs[0]) : t.wf := by
  rw [State.wf, hmem, hstored, hslot]
  exact hs

theorem Instr.storeAccess_width {i : Instr} {base : Reg} {imm : Half} {n : Nat}
    (h : i.storeAccess = some (base, imm, n)) : n = 1 ∨ n = 2 ∨ n = 4 := by
  unfold Instr.storeAccess at h
  split at h <;> cases h <;> simp

/-- Bytes stored inside the address space keep the invariant: the bytes recorded as stored to are the ones written. -/
theorem putBytes_wf {s : State} (hs : s.wf) {a : Word} {bs : List Byte} (ha : a.toNat + bs.length ≤ 2 ^ 32) :
    (s.putBytes a bs).wf := by
  obtain ⟨hmem, hrise, hread, hslot⟩ := hs
  refine ⟨Memory.wf_writeBytes hmem ha, markStored_rises _ _ _ hrise, fun b hb => ?_, hslot⟩
  rw [State.putBytes_mem, Memory.read?_writeBytes]
  split_ifs with hin
  · simp
    omega
  · rw [State.putBytes_stored, mem_markStored] at hb
    exact hread b (hb.resolve_right hin)

theorem Machine.Effect.wf {i : Instr} {s t : State} (h : Effect i s t) (hs : s.wf) : t.wf := by
  cases h with
  | store base imm n bs haccess hlen hlegal _ =>
    obtain ⟨haligned, -⟩ := (s.illegalAddress_eq_false_iff _ _ _).mp hlegal
    have hfits := aligned_fits (Instr.storeAccess_width haccess) haligned
    exact wf_of_kept (putBytes_wf hs (hlen ▸ hfits)) rfl rfl rfl
  | _ => exact wf_of_kept hs (by simp) (by simp) (by simp)

/-- Settles O13: an instruction keeps the invariant in each case of its effect, an exception entry leaves all it speaks
of alone. -/
theorem stepKeepsInvariant : Obligations.StepKeepsInvariant := by
  intro s t hs h
  rcases step_cases h with ⟨-, rfl⟩ | ⟨-, -, -, -, rfl⟩ | ⟨-, i, -, -, hexec⟩
  · exact wf_of_kept hs rfl rfl rfl
  · exact wf_of_kept hs rfl rfl rfl
  · exact (exec_effect hexec).wf hs

-- The parameters and stored-to words (O14).

theorem Machine.Effect.keepsPlatform {i : Instr} {s t : State} (h : Effect i s t) : KeepsPlatform s t := by
  cases h <;> simp [KeepsPlatform]

theorem step_keepsPlatform {s t : State} (h : step s = .next t) : KeepsPlatform s t := by
  rcases step_cases h with ⟨-, rfl⟩ | ⟨-, -, -, -, rfl⟩ | ⟨-, i, -, -, hexec⟩
  · rfl
  · rfl
  · exact (exec_effect hexec).keepsPlatform

/-- A word is fetched only where none of its bytes was stored to. -/
theorem Machine.State.not_mem_stored_of_fetch {s : State} {w : Word} (h : s.fetch = .word w) (k : Nat) (hk : k < 4) :
    s.pc.toNat + k ∉ s.stored := by
  rcases s.fetch_cases with ⟨-, hf⟩ | ⟨-, ⟨-, hf⟩ | ⟨hclean, -⟩⟩
  · exact absurd (hf.symm.trans h) nofun
  · exact absurd (hf.symm.trans h) nofun
  · exact (s.storedTo_eq_false_iff s.pc).mp hclean k hk

/-- Settles O14: a word one byte of which was stored to is never fetched, so such a step can only be the fetch's
exception. -/
theorem stepKeepsPlatform : Obligations.StepKeepsPlatform := by
  refine fun s t h => ⟨step_keepsPlatform h, ?_⟩
  rintro ⟨k, hk, hstored⟩
  rcases step_cases h with ⟨-, rfl⟩ | ⟨w, -, hf, -⟩ | ⟨w, -, hf, -⟩
  · exact s.takeException_spec .illegalAddress
  · exact absurd hstored (s.not_mem_stored_of_fetch hf k hk)
  · exact absurd hstored (s.not_mem_stored_of_fetch hf k hk)

-- The mode (O15).

theorem Machine.Effect.mode_eq_or_exception {i : Instr} {s t : State} (h : Effect i s t) :
    t.mode = s.mode ∨ ∃ e, e ≠ .illegalOpcode ∧ t = s.takeException e := by
  cases h with
  | exception e he _ => exact .inr ⟨e, he, rfl⟩
  | _ => exact .inl (by simp)

theorem step_mode_eq_or_exception {s t : State} (h : step s = .next t) :
    t.mode = s.mode ∨ ∃ e, t = s.takeException e := by
  rcases step_cases h with ⟨-, rfl⟩ | ⟨-, -, -, -, rfl⟩ | ⟨-, i, -, -, hexec⟩
  · exact .inr ⟨_, rfl⟩
  · exact .inr ⟨_, rfl⟩
  · exact (exec_effect hexec).mode_eq_or_exception.imp_right fun ⟨e, _, ht⟩ => ⟨e, ht⟩

theorem Mode.eq_user_of_ne_kernel {m : Mode} (h : m ≠ .kernel) : m = .user := by
  cases m
  · exact absurd rfl h
  · rfl

/-- Settles O15: a step keeps the mode or is an exception entry, which enters kernel mode. -/
theorem modeChangesOnlyByException : Obligations.ModeChangesOnlyByException := by
  intro s t h
  rcases step_mode_eq_or_exception h with hmode | ⟨e, rfl⟩
  · exact ⟨fun hne => absurd hmode hne, fun hk => hmode.trans hk⟩
  · exact ⟨fun hne => ⟨Mode.eq_user_of_ne_kernel hne.symm, e.code, e.code_mem, s.takeException_spec e⟩, fun _ => rfl⟩

-- Memory (O16).

theorem KeepsMemory.of_eq {s t : State} (hmem : t.mem = s.mem) (hstored : t.stored = s.stored) : KeepsMemory s t :=
  ⟨fun a => by rw [hmem], fun a => by rw [hstored]⟩

/-- An instruction keeps memory or writes as many bytes as the width of a store, at its effective address. -/
theorem Machine.Effect.keepsMemory_or_store {i : Instr} {s t : State} (h : Effect i s t) :
    KeepsMemory s t ∨ ∃ base imm bs, i.storeAccess = some (base, imm, bs.length) ∧
      WritesMemory s t (s.effectiveAddress base imm).toNat bs := by
  cases h with
  | store base imm n bs haccess hlen _ _ =>
    exact .inr ⟨base, imm, bs, hlen ▸ haccess, (s.putBytes_advance_spec _ bs).2⟩
  | _ => exact .inl (.of_eq (by simp) (by simp))

/-- Settles O16: a store writes the bytes at its effective address, every other instruction keeps memory. -/
theorem onlyStoresChangeMemory : Obligations.OnlyStoresChangeMemory := by
  intro i s t h
  rcases (exec_effect h).keepsMemory_or_store with ⟨hread, hstored⟩ | ⟨base, imm, bs, haccess, hread, hstored, -⟩
  · split
    · exact ⟨hread, hstored⟩
    · exact fun a _ => ⟨hread a, hstored a⟩
  · rw [haccess]
    intro a hout
    exact ⟨(hread a).trans (if_neg hout), (hstored a).trans (or_iff_left hout)⟩

-- Hi and Lo (O17).

/-- Settles O17: the two effects that write Hi and Lo are those of the multiplications and divisions. -/
theorem onlyMultiplyDivideChangeHiLo : Obligations.OnlyMultiplyDivideChangeHiLo := by
  intro i s t h
  cases exec_effect h with
  | writeHiLo _ _ hi => exact .inr hi
  | openHiLo hi => exact .inr hi
  | _ => exact .inl (by simp [KeepsHiLo])

-- General registers (O18).

theorem Machine.State.setX_x_of_ne (s : State) {d r : Reg} (h : r ≠ d) (v : Word) : (s.setX d v).x r = s.x r := by
  simp [h]

/-- Settles O18: a register write is to the destination the instruction names, and x[0] reads 0 in every state. -/
theorem onlyDestinationRegisterChanges : Obligations.OnlyDestinationRegisterChanges := by
  refine fun i s t h => ⟨fun r hr => ?_, s.x_zero, t.x_zero⟩
  cases exec_effect h with
  | writeX rd v hd _ => exact s.setX_x_of_ne (fun hrd => hr (hd.trans (congrArg some hrd.symm))) v
  | link rd v a hd _ _ => exact s.setX_x_of_ne (fun hrd => hr (hd.trans (congrArg some hrd.symm))) v
  | _ => simp

-- Floating-point registers (O19).

/-- Settles O19: a floating-point register write is to one the instruction names. -/
theorem onlyFloatDestinationsChange : Obligations.OnlyFloatDestinationsChange := by
  intro i s t h r hr
  cases exec_effect h with
  | writeF fd v hd _ =>
    have hne : r ≠ fd := by simpa [hd] using hr
    simp [hne]
  | writeTwoF fd v u hd _ =>
    obtain ⟨hne, hne'⟩ : r ≠ fd ∧ r ≠ fd + 1 := by simpa [hd] using hr
    simp [hne, hne']
  | _ => simp

-- Status, Cause and EPC (O20).

theorem cop0Reg?_eq_status {cd : CReg} : cop0Reg? cd = some .status ↔ cd = 12 := by
  revert cd
  decide

theorem cop0Reg?_eq_cause {cd : CReg} : cop0Reg? cd = some .cause ↔ cd = 13 := by
  revert cd
  decide

theorem cop0Reg?_eq_epc {cd : CReg} : cop0Reg? cd = some .epc ↔ cd = 14 := by
  revert cd
  decide

theorem keepsCop0_iff {s t : State} : KeepsCop0 s t ↔ ∀ c, t.c0 c = s.c0 c := by
  constructor
  · rintro ⟨hstatus, hcause, hepc⟩ c
    cases c
    · exact hstatus
    · exact hcause
    · exact hepc
  · exact fun h => ⟨h .status, h .cause, h .epc⟩

/-- An instruction keeps the coprocessor 0 registers, or writes the one it names, or enters an exception. -/
theorem Machine.Effect.cop0_cases {i : Instr} {s t : State} (h : Effect i s t) :
    KeepsCop0 s t ∨ (∃ e, e ≠ .illegalOpcode ∧ i.isTransfer = false ∧ t = s.takeException e) ∨
      ∃ cd rt c, i = .mtc0 cd rt ∧ cop0Reg? cd = some c ∧ t = (s.setC0 c (s.x rt)).advance := by
  cases h with
  | exception e he ht => exact .inr (.inl ⟨e, he, ht, rfl⟩)
  | writeCop0 cd rt c hi hc => exact .inr (.inr ⟨cd, rt, c, hi, hc, rfl⟩)
  | _ => exact .inl (by simp [KeepsCop0])

/-- Settles O20: an instruction keeps the three registers, is an exception entry, which keeps Status, or is MTC0 of the
one register it changes. -/
theorem cop0ChangesOnlyByMtc0OrException : Obligations.Cop0ChangesOnlyByMtc0OrException := by
  intro i s t h
  rcases (exec_effect h).cop0_cases with ⟨hstatus, hcause, hepc⟩ | ⟨e, -, -, rfl⟩ | ⟨cd, rt, c, rfl, hc, rfl⟩
  · exact ⟨fun hne => absurd hstatus hne, fun hne => absurd hcause hne, fun hne => absurd hepc hne⟩
  · have hentry := s.takeException_spec e
    exact ⟨fun hne => absurd rfl hne, fun _ => .inr ⟨_, hentry⟩, fun _ => .inr ⟨_, hentry⟩⟩
  · cases c with
    | status => simp [cop0Reg?_eq_status.mp hc]
    | cause => simp [cop0Reg?_eq_cause.mp hc]
    | epc => simp [cop0Reg?_eq_epc.mp hc]

-- The program counter (O21, O22).

/-- Settles O21: `pc + 4`, the vector and the targets of branches and of J and JAL are aligned. -/
theorem pcStaysAligned : Obligations.PcStaysAligned := by
  intro i s t h haligned hjr hjalr
  cases exec_effect h with
  | exception => exact (by decide : excVector.toNat % 4 = 0)
  | transfer a _ ha =>
    rcases ha with ⟨rs, hi⟩ | ha
    · exact absurd hi (hjr rs)
    · exact ha haligned
  | link rd v a _ _ ha =>
    rcases ha with ⟨rd, rs, hi⟩ | ha
    · exact absurd hi (hjalr rd rs)
    · exact ha
  | _ => simpa using aligned_add_four haligned

theorem Machine.Effect.pc_of_not_transfer {i : Instr} {s t : State} (h : Effect i s t) (hi : i.isTransfer = false) :
    t.pc = s.pc + 4#32 ∨ ∃ e, e ≠ .illegalOpcode ∧ t = s.takeException e := by
  cases h with
  | exception e he _ => exact .inr ⟨e, he, rfl⟩
  | transfer _ ht _ => exact absurd (ht.symm.trans hi) nofun
  | link _ _ _ _ ht _ => exact absurd (ht.symm.trans hi) nofun
  | _ => exact .inl (by simp)

/-- A branch or a jump writes `pc`, and its link register where it has one. -/
theorem Machine.Effect.of_transfer {i : Instr} {s t : State} (h : Effect i s t) (hi : i.isTransfer = true) :
    t.mode = s.mode ∧ KeepsCop0 s t := by
  cases h with
  | transfer => exact ⟨rfl, rfl, rfl, rfl⟩
  | link => simp [KeepsCop0]
  | writeHiLo _ _ hmul => obtain ⟨rs, rt, rfl | rfl | rfl | rfl⟩ := hmul <;> cases hi
  | openHiLo hmul => obtain ⟨rs, rt, rfl | rfl | rfl | rfl⟩ := hmul <;> cases hi
  | writeCop0 cd rt c hmtc0 _ => exact absurd hi (by simp [hmtc0, Instr.isTransfer])
  | exception _ _ ht | writeX _ _ _ ht | writeF _ _ _ ht | writeTwoF _ _ _ _ ht | store _ _ _ _ _ _ _ ht =>
    exact absurd (hi.symm.trans ht) nofun

/-- Settles O22: the effects of a non-transfer advance `pc` but for its own exceptions, those of a transfer are a jump,
with a link or without. -/
theorem nextPcCases : Obligations.NextPcCases := by
  refine fun i s t h => ⟨fun hi => ?_, (exec_effect h).of_transfer⟩
  refine ((exec_effect h).pc_of_not_transfer hi).imp_right ?_
  rintro ⟨e, he, rfl⟩
  exact ⟨e.code, Exc.code_mem_of_ne_illegalOpcode he, s.takeException_spec e⟩

end Sys2Proof

/-! PROOFS. O4, O11, O12 (30_encoding.md section 3; 10_state.md R42): the spec's example words and the state after
reset. -/

namespace Sys2Proof

open Machine

/-- Settles O4: fifteen runs of the decoder. -/
theorem sampleWordsDecode : Obligations.SampleWordsDecode := by
  unfold Obligations.SampleWordsDecode
  decide

theorem reset_x (r : Reg) : State.reset.x r = 0#32 := by
  simp [State.x, State.reset]

theorem reset_f (r : FReg) : State.reset.f r = 0#32 := by
  simp [State.f, State.reset]

/-- Settles O11: every field is written out in the definition of the state after reset. -/
theorem resetValues : Obligations.ResetValues :=
  ⟨rfl, rfl, rfl, reset_x, reset_f, rfl, rfl, rfl, rfl, rfl, fun _ => rfl, rfl⟩

/-- Settles O12: memory and the stored-to bytes are empty after reset. -/
theorem resetMeetsInvariant : Obligations.ResetMeetsInvariant :=
  ⟨Memory.wf_reset, List.Pairwise.nil, nofun, rfl⟩

end Sys2Proof

/-! PROOFS. What reads of memory give where memory holds given bytes, and where a byte has no value (20_memory.md
R52). -/

namespace Sys2Proof

open Machine

/-- Two bytes that memory holds are the halfword they make up. -/
theorem MemoryHolds.halfAt {s : State} {a : Word} {b0 b1 : Byte} (h : MemoryHolds s a.toNat [b0, b1]) :
    s.halfAt a = some (joinHalf s.platform.byteOrder b0 b1) :=
  Memory.readHalf?_eq_some.mpr ⟨b0, b1, h 0 (by simp), h 1 (by simp), rfl⟩

/-- Four bytes that memory holds are the word they make up. -/
theorem MemoryHolds.wordAt {s : State} {a : Word} {b0 b1 b2 b3 : Byte} (h : MemoryHolds s a.toNat [b0, b1, b2, b3]) :
    s.wordAt a = some (joinWord s.platform.byteOrder b0 b1 b2 b3) :=
  Memory.readWord?_eq_some.mpr ⟨b0, b1, b2, b3, h 0 (by simp), h 1 (by simp), h 2 (by simp), h 3 (by simp), rfl⟩

theorem Machine.State.wordAt_eq_none_iff (s : State) (a : Word) :
    s.wordAt a = none ↔ ∃ k, k < 4 ∧ Memory.read? s.mem (a.toNat + k) = none := by
  rw [State.wordAt, Memory.readWord?_eq_none]
  constructor
  · rintro (h | h | h | h)
    exacts [⟨0, by decide, h⟩, ⟨1, by decide, h⟩, ⟨2, by decide, h⟩, ⟨3, by decide, h⟩]
  · rintro ⟨k, hk, hnone⟩
    interval_cases k <;> simp_all

theorem Machine.State.halfAt_eq_none_iff (s : State) (a : Word) :
    s.halfAt a = none ↔ ∃ k, k < 2 ∧ Memory.read? s.mem (a.toNat + k) = none := by
  rw [State.halfAt, Memory.readHalf?_eq_none]
  constructor
  · rintro (h | h)
    exacts [⟨0, by decide, h⟩, ⟨1, by decide, h⟩]
  · rintro ⟨k, hk, hnone⟩
    interval_cases k <;> simp_all

theorem Machine.State.byteAt_eq_none_iff (s : State) (a : Word) :
    s.byteAt a = none ↔ ∃ k, k < 1 ∧ Memory.read? s.mem (a.toNat + k) = none := by
  simp [State.byteAt]

end Sys2Proof

/-! PROOFS. O6 to O10 (10_state.md R26; 20_memory.md R62; 60_exceptions.md R235, R237, R239, R242): what a step does by
what its fetch finds. -/

namespace Sys2Proof

open Machine

-- What the fetch finds, by the state of the word at `pc`.

theorem Machine.State.fetch_of_illegal {s : State}
    (h : s.pc.toNat % 4 ≠ 0 ∨ legalAddr s.platform s.mode s.pc 4 .fetch = false) : s.fetch = .illegalAddress := by
  simp [State.fetch, (s.illegalAddress_iff _ _ _).mpr h]

section LegalFetch

variable {s : State} (haligned : s.pc.toNat % 4 = 0) (hlegal : legalAddr s.platform s.mode s.pc 4 .fetch = true)
include haligned hlegal

theorem fetch_of_stored (hstored : ∃ k, k < 4 ∧ s.pc.toNat + k ∈ s.stored) : s.fetch = .selfModified := by
  have hst : s.storedTo s.pc = true := by
    obtain ⟨k, hk, hmem⟩ := hstored
    rw [← Bool.not_eq_false, s.storedTo_eq_false_iff]
    exact fun hclean => hclean k hk hmem
  simp [State.fetch, (s.illegalAddress_eq_false_iff _ _ _).mpr ⟨haligned, hlegal⟩, hst]

theorem fetch_of_wordAt {w : Word} (hclean : ∀ k, k < 4 → s.pc.toNat + k ∉ s.stored) (hw : s.wordAt s.pc = some w) :
    s.fetch = .word w := by
  simp [State.fetch, (s.illegalAddress_eq_false_iff _ _ _).mpr ⟨haligned, hlegal⟩,
    (s.storedTo_eq_false_iff s.pc).mpr hclean, hw]

theorem fetch_of_wordAt_none (hclean : ∀ k, k < 4 → s.pc.toNat + k ∉ s.stored) (hw : s.wordAt s.pc = none) :
    s.fetch = .unwritten := by
  simp [State.fetch, (s.illegalAddress_eq_false_iff _ _ _).mpr ⟨haligned, hlegal⟩,
    (s.storedTo_eq_false_iff s.pc).mpr hclean, hw]

end LegalFetch

-- The step, by what the fetch finds.

theorem step_of_fetch_illegalAddress {s : State} (h : s.fetch = .illegalAddress) :
    step s = s.raise .illegalAddress := by
  simp [step, State.fetchThen, h]

theorem step_of_fetch_selfModified {s : State} (h : s.fetch = .selfModified) :
    step s = .refused .selfModifyingCode := by
  simp [step, State.fetchThen, h]

theorem step_of_fetch_unwritten {s : State} (h : s.fetch = .unwritten) : step s = .fault .unwrittenFetch := by
  simp [step, State.fetchThen, h]

theorem step_of_fetch_error {s : State} {w : Word} {e : DecodeError} (h : s.fetch = .word w)
    (hdec : decodeWord w = .error e) : step s = s.raise .illegalOpcode := by
  simp [step, State.fetchThen, h, State.decodeThen, hdec]

/-- Settles O6: the fetch finds the word the four bytes make up, which is what they decode as. -/
theorem stepRunsDecodedInstruction : Obligations.StepRunsDecodedInstruction := by
  intro s b0 b1 b2 b3 i haligned hlegal hclean hholds hdec
  exact step_of_fetch (fetch_of_wordAt haligned hlegal hclean hholds.wordAt) hdec

/-- Settles O7: the address is looked at before memory is. -/
theorem illegalFetchRaises : Obligations.IllegalFetchRaises := by
  intro s h
  rw [step_of_fetch_illegalAddress (s.fetch_of_illegal h)]
  exact s.raise_spec .illegalAddress

theorem decodeWord_error_of_no_row {w : Word} (h : ∀ r ∈ opcodeTable, w &&& r.1 ≠ r.2) :
    ∃ e, decodeWord w = .error e := by
  cases hdec : decodeWord w with
  | error e => exact ⟨e, rfl⟩
  | ok i => exact absurd (matches_row_of_decodeWord hdec) (h i.row (row_mem_opcodeTable i))

/-- Settles O8: a word that decodes matches a row (O3), so this one is an error of the decoder. -/
theorem illegalOpcodeRaises : Obligations.IllegalOpcodeRaises := by
  intro s b0 b1 b2 b3 haligned hlegal hclean hholds hrows
  rw [bytesValue_word, BitVec.ofNat_toNat, BitVec.setWidth_eq] at hrows
  obtain ⟨e, hdec⟩ := decodeWord_error_of_no_row hrows
  rw [step_of_fetch_error (fetch_of_wordAt haligned hlegal hclean hholds.wordAt) hdec]
  exact s.raise_spec .illegalOpcode

/-- Settles O9: stored-to bytes are looked at first, then whether each byte has a value. -/
theorem legalFetchStops : Obligations.LegalFetchStops := by
  intro s haligned hlegal
  constructor
  · exact fun hstored => step_of_fetch_selfModified (fetch_of_stored haligned hlegal hstored)
  · intro hclean hnone
    exact step_of_fetch_unwritten (fetch_of_wordAt_none haligned hlegal hclean ((s.wordAt_eq_none_iff _).mpr hnone))

-- The vector that cannot be fetched (O10).

theorem run_succ_of_step {M : Host.Core} {s t : M.State} (h : M.step s = .next t) (n : Nat) :
    M.run (n + 1) s = M.run n t := by
  rw [Host.Core.run, h]

/-- A state that a step leaves as it is is where every run from it ends. -/
theorem run_of_step_self {M : Host.Core} {s : M.State} (h : M.step s = .next s) (n : Nat) : M.run n s = .next s := by
  induction n with
  | zero => rfl
  | succ n ih => exact (run_succ_of_step h n).trans ih

/-- Where the vector cannot be fetched, the step at the vector is the exception entry. -/
theorem step_of_unfetchable {s : State} (hpc : s.pc = excVector) (hmode : s.mode = .kernel)
    (hillegal : legalAddr s.platform .kernel excVector 4 .fetch = false) :
    step s = .next (s.takeException .illegalAddress) :=
  step_of_fetch_illegalAddress (s.fetch_of_illegal (.inr (by rw [hpc, hmode]; exact hillegal)))

/-- Settles O10: the entry leads to a state that the next entry, from the vector, leaves as it is. -/
theorem unfetchableVectorLoops : Obligations.UnfetchableVectorLoops := by
  intro s hpc hmode hillegal
  have hfirst := step_of_unfetchable hpc hmode hillegal
  have hagain : step (s.takeException .illegalAddress) = .next (s.takeException .illegalAddress) := by
    rw [step_of_unfetchable (s := s.takeException .illegalAddress) rfl rfl hillegal, State.takeException,
      State.takeException, hpc]
    rfl
  have hrun (n : Nat) : Host.Core.run core (n + 1) s = .next (s.takeException .illegalAddress) :=
    (run_succ_of_step (M := core) hfirst n).trans (run_of_step_self (M := core) hagain n)
  constructor
  · rintro (_ | n)
    · exact ⟨s, rfl⟩
    · exact ⟨_, hrun n⟩
  · exact fun n => ⟨_, hrun n, s.takeException_spec .illegalAddress⟩

end Sys2Proof

/-! PROOFS. O24, O25, O39 to O44 (20_memory.md R52 to R56, R66; 43_load_store_lui.md): memory read after a store, the
loads and the stores. -/

namespace Sys2Proof

open Machine

-- Reading what was stored (O24, O25).

theorem putBytes_holds (s : State) (a : Word) (bs : List Byte) : MemoryHolds (s.putBytes a bs) a.toNat bs := by
  intro k hk
  rw [State.putBytes_mem, Memory.read?_writeBytes, if_pos (by omega), Nat.add_sub_cancel_left]

theorem read?_putBytes_of_outside (s : State) (a : Word) (bs : List Byte) {b : Nat}
    (hout : ¬ (a.toNat ≤ b ∧ b < a.toNat + bs.length)) :
    Memory.read? (s.putBytes a bs).mem b = Memory.read? s.mem b := by
  rw [State.putBytes_mem, Memory.read?_writeBytes, if_neg hout]

theorem halfAt_putBytes_splitHalf (s : State) (a : Word) (v : Half) :
    (s.putBytes a (splitHalf s.platform.byteOrder v)).halfAt a = some v := by
  obtain ⟨b0, b1, hsplit, hjoin⟩ := exists_splitHalf s.platform.byteOrder v
  rw [hsplit, (putBytes_holds s a [b0, b1]).halfAt, State.putBytes_platform, hjoin]

theorem wordAt_putBytes_splitWord (s : State) (a : Word) (v : Word) :
    (s.putBytes a (splitWord s.platform.byteOrder v)).wordAt a = some v := by
  obtain ⟨b0, b1, b2, b3, hsplit, hjoin⟩ := exists_splitWord s.platform.byteOrder v
  rw [hsplit, (putBytes_holds s a [b0, b1, b2, b3]).wordAt, State.putBytes_platform, hjoin]

/-- Settles O24: the bytes a store leaves are the ones the value splits into, and joining them is the value again. -/
theorem storedValueReadsBack : Obligations.StoredValueReadsBack := by
  refine fun s a => ⟨fun v => ⟨?_, fun b hb => ?_⟩, fun v => ⟨?_, fun b hb => ?_⟩, fun v => ⟨?_, fun b hb => ?_⟩⟩
  · exact putBytes_holds s a [v] 0 (by simp)
  · refine read?_putBytes_of_outside s a [v] ?_
    simp only [List.length_singleton]
    omega
  · exact halfAt_putBytes_splitHalf s a v
  · exact read?_putBytes_of_outside s a _ (by rwa [splitHalf_length])
  · exact wordAt_putBytes_splitWord s a v
  · exact read?_putBytes_of_outside s a _ (by rwa [splitWord_length])

/-- The byte at a word's address and the halfword two bytes on, from the word's four bytes. -/
theorem byteAt_halfAt_of_holds {s : State} {a : Word} {b0 b1 b2 b3 : Byte} (haligned : a.toNat % 4 = 0)
    (h : MemoryHolds s a.toNat [b0, b1, b2, b3]) :
    s.byteAt a = some b0 ∧ s.halfAt (a + 2#32) = some (joinHalf s.platform.byteOrder b2 b3) := by
  have hadd : (a + 2#32).toNat = a.toNat + 2 := by
    have := a.isLt
    simp only [BitVec.toNat_add, BitVec.toNat_ofNat]
    omega
  refine ⟨h 0 (by simp), MemoryHolds.halfAt ?_⟩
  intro k hk
  rw [hadd, Nat.add_assoc, h (2 + k) (Nat.add_lt_add_left hk 2), Nat.add_comm 2]
  rfl

/-- Settles O25: the bytes of 0x11223344 rise from 0x11 in big and from 0x44 in little byte order. -/
theorem narrowReadsSeeByteOrder : Obligations.NarrowReadsSeeByteOrder := by
  intro s a haligned t
  cases horder : s.platform.byteOrder with
  | big =>
    have hbytes : splitWord s.platform.byteOrder 0x11223344#32 = [0x11#8, 0x22#8, 0x33#8, 0x44#8] := by rw [horder]; rfl
    have hholds : MemoryHolds t a.toNat [0x11#8, 0x22#8, 0x33#8, 0x44#8] := by
      rw [← hbytes]
      exact putBytes_holds s a _
    have hread := byteAt_halfAt_of_holds haligned hholds
    rwa [show t.platform.byteOrder = .big from horder] at hread
  | little =>
    have hbytes : splitWord s.platform.byteOrder 0x11223344#32 = [0x44#8, 0x33#8, 0x22#8, 0x11#8] := by rw [horder]; rfl
    have hholds : MemoryHolds t a.toNat [0x44#8, 0x33#8, 0x22#8, 0x11#8] := by
      rw [← hbytes]
      exact putBytes_holds s a _
    have hread := byteAt_halfAt_of_holds haligned hholds
    rwa [show t.platform.byteOrder = .little from horder] at hread

-- Every load is `loadThen`, every store is `store`, at the address and width the instruction names.

theorem exec_of_loadAccess {i : Instr} {base : Reg} {imm : Half} {n : Nat} (h : i.loadAccess = some (base, imm, n))
    (s : State) : ∃ (w : Nat) (value : Option (BitVec w)) (write : BitVec w → State),
      exec i s = s.loadThen (s.effectiveAddress base imm) n value write ∧
        (value = none ↔ ∃ k, k < n ∧ Memory.read? s.mem ((s.effectiveAddress base imm).toNat + k) = none) := by
  unfold Instr.loadAccess at h
  split at h <;> cases h
  case h_1 | h_2 => exact ⟨32, _, _, rfl, s.wordAt_eq_none_iff _⟩
  case h_3 | h_4 => exact ⟨16, _, _, rfl, s.halfAt_eq_none_iff _⟩
  case h_5 | h_6 => exact ⟨8, _, _, rfl, s.byteAt_eq_none_iff _⟩

theorem exec_of_storeAccess {i : Instr} {base : Reg} {imm : Half} {n : Nat} (h : i.storeAccess = some (base, imm, n))
    (s : State) : ∃ bs, exec i s = s.store (s.effectiveAddress base imm) n bs := by
  unfold Instr.storeAccess at h
  split at h <;> cases h <;> exact ⟨_, rfl⟩

theorem Machine.State.loadThen_of_illegal {s : State} {ea : Word} {n w : Nat} (value : Option (BitVec w))
    (write : BitVec w → State) (h : s.illegalAddress ea n .load = true) :
    s.loadThen ea n value write = s.raise .illegalAddress :=
  if_pos h

theorem Machine.State.loadThen_of_legal {s : State} {ea : Word} {n w : Nat} (value : Option (BitVec w))
    (write : BitVec w → State) (haligned : ea.toNat % n = 0) (hlegal : legalAddr s.platform s.mode ea n .load = true) :
    s.loadThen ea n value write = value.elim (.fault .unwrittenLoad) (fun v => .next (write v).advance) := by
  have hlegal := (s.illegalAddress_eq_false_iff ea n .load).mpr ⟨haligned, hlegal⟩
  cases value <;> simp [State.loadThen, hlegal]

/-- Settles O41: the address is looked at before anything is read or written. -/
theorem illegalAccessRaises : Obligations.IllegalAccessRaises := by
  refine fun i s base imm n => ⟨fun haccess hillegal => ?_, fun haccess hillegal => ?_⟩
  · obtain ⟨w, value, write, hexec, -⟩ := exec_of_loadAccess haccess s
    rw [hexec, State.loadThen_of_illegal value write ((s.illegalAddress_iff (s.effectiveAddress base imm) n .load).mpr
      hillegal)]
    exact s.raise_spec .illegalAddress
  · obtain ⟨bs, hexec⟩ := exec_of_storeAccess haccess s
    rw [hexec, State.store, if_pos ((s.illegalAddress_iff (s.effectiveAddress base imm) n .store).mpr hillegal)]
    exact s.raise_spec .illegalAddress

/-- Settles O42: the value a load reads is missing exactly where one of its bytes is. -/
theorem unwrittenLoadFaults : Obligations.UnwrittenLoadFaults := by
  intro i s base imm n ea haccess haligned hlegal hnone
  obtain ⟨w, value, write, hexec, hvalue⟩ := exec_of_loadAccess haccess s
  rw [hexec, State.loadThen_of_legal (ea := s.effectiveAddress base imm) value write haligned hlegal, hvalue.mpr hnone]
  rfl

-- The results of the loads (O39, O40).

theorem loadThen_of_value {s : State} {ea : Word} {n w : Nat} {value : Option (BitVec w)} {b : BitVec w}
    (write : BitVec w → State) (haligned : ea.toNat % n = 0) (hlegal : legalAddr s.platform s.mode ea n .load = true)
    (hvalue : value = some b) : s.loadThen ea n value write = .next (write b).advance := by
  rw [State.loadThen_of_legal _ _ haligned hlegal, hvalue]
  rfl

theorem loadThen_setX_spec {s : State} {ea : Word} {n w : Nat} {value : Option (BitVec w)} {b : BitVec w} (rt : Reg)
    (extend : BitVec w → Word) (haligned : ea.toNat % n = 0) (hlegal : legalAddr s.platform s.mode ea n .load = true)
    (hvalue : value = some b) : ∃ t, s.loadThen ea n value (fun v => s.setX rt (extend v)) = .next t ∧
      t.pc = s.pc + 4#32 ∧ WritesX s t rt (extend b) :=
  ⟨_, loadThen_of_value _ haligned hlegal hvalue, s.setX_advance_spec rt (extend b)⟩

/-- Settles O39: both loads read the joined word, whose number is that of its bytes in the byte order. -/
theorem loadWordResult : Obligations.LoadWordResult := by
  intro s rt rs ft imm b0 b1 b2 b3 ea haligned hlegal hholds
  rw [bytesValue_word]
  constructor
  · obtain ⟨t, hexec, hpc, hwrites⟩ := loadThen_setX_spec rt id haligned hlegal hholds.wordAt
    exact ⟨t, _, hexec, hpc, hwrites, rfl⟩
  · obtain ⟨hpc, hwrites⟩ := s.setF_advance_spec ft (joinWord s.platform.byteOrder b0 b1 b2 b3)
    exact ⟨_, _, loadThen_of_value (s.setF ft) haligned hlegal hholds.wordAt, hpc, hwrites, rfl⟩

/-- Settles O40: the four narrow loads differ in the width read and in the extension. -/
theorem narrowLoadResult : Obligations.NarrowLoadResult := by
  refine fun s rt rs imm b0 b1 => ⟨fun hlegal hholds => ?_, fun haligned hlegal hholds => ?_⟩
  · have hvalue : s.byteAt (s.effectiveAddress rs imm) = some b0 := hholds 0 (by simp)
    have hload (extend : Byte → Word) := loadThen_setX_spec rt extend (Nat.mod_one _) hlegal hvalue
    obtain ⟨t, hexec, hpc, hwrites⟩ := hload (·.zeroExtend 32)
    obtain ⟨t', hexec', hpc', hwrites'⟩ := hload (·.signExtend 32)
    refine ⟨⟨t, _, hexec, hpc, hwrites, ?_⟩, ⟨t', _, hexec', hpc', hwrites', ?_⟩⟩
    · exact BitVec.toNat_setWidth_of_le (by decide)
    · exact BitVec.toInt_signExtend_of_le (by decide)
  · have hload (extend : Half → Word) := loadThen_setX_spec rt extend haligned hlegal hholds.halfAt
    obtain ⟨t, hexec, hpc, hwrites⟩ := hload (·.zeroExtend 32)
    obtain ⟨t', hexec', hpc', hwrites'⟩ := hload (·.signExtend 32)
    rw [bytesValue_half, BitVec.ofNat_toNat, BitVec.setWidth_eq]
    refine ⟨⟨t, _, hexec, hpc, hwrites, ?_⟩, ⟨t', _, hexec', hpc', hwrites', ?_⟩⟩
    · exact BitVec.toNat_setWidth_of_le (by decide)
    · exact BitVec.toInt_signExtend_of_le (by decide)

-- The results of the stores (O43, O44).

theorem store_of_legal {s : State} {ea : Word} {n : Nat} (bs : List Byte) (haligned : ea.toNat % n = 0)
    (hlegal : legalAddr s.platform s.mode ea n .store = true) :
    ∃ t, s.store ea n bs = .next t ∧ t.pc = s.pc + 4#32 ∧ WritesMemory s t ea.toNat bs := by
  have hlegal := (s.illegalAddress_eq_false_iff ea n .store).mpr ⟨haligned, hlegal⟩
  rcases s.store_spec ea n bs with ⟨hillegal, -⟩ | ⟨-, hstore⟩
  · exact absurd (hillegal.symm.trans hlegal) nofun
  · exact hstore

/-- Settles O43: the bytes stored are the ones the word splits into. -/
theorem storeWordResult : Obligations.StoreWordResult := by
  intro s rt rs ft imm ea haligned hlegal
  have hstore (v : Word) : ∃ t bs, s.store ea 4 (splitWord s.platform.byteOrder v) = .next t ∧ t.pc = s.pc + 4#32 ∧
      bs.length = 4 ∧ bytesValue s.platform.byteOrder bs = v.toNat ∧ WritesMemory s t ea.toNat bs := by
    obtain ⟨t, hexec, hpc, hwrites⟩ := store_of_legal (splitWord s.platform.byteOrder v) haligned hlegal
    exact ⟨t, _, hexec, hpc, splitWord_length _ v, bytesValue_splitWord _ v, hwrites⟩
  exact ⟨hstore (s.x rt), hstore (s.f ft)⟩

/-- Settles O44: the bytes stored are the low one, or the ones the low halfword splits into. -/
theorem narrowStoreResult : Obligations.NarrowStoreResult := by
  refine fun s rt rs imm => ⟨fun hlegal => ?_, fun haligned hlegal => ?_⟩
  · obtain ⟨t, hexec, hpc, hwrites⟩ := store_of_legal [lowByte (s.x rt)] (Nat.mod_one _) hlegal
    exact ⟨t, _, hexec, hpc, lowByte_toNat _, hwrites⟩
  · obtain ⟨t, hexec, hpc, hwrites⟩ :=
      store_of_legal (splitHalf s.platform.byteOrder (lowHalf (s.x rt))) haligned hlegal
    exact ⟨t, _, hexec, hpc, splitHalf_length _ _, (bytesValue_splitHalf _ _).trans (lowHalf_toNat _), hwrites⟩

end Sys2Proof

/-! PROOFS. O23 (93_implementation_defined.md U3, U6 to U8): what each instruction answers, with the reason where it
stops. `Answer` is for the stops what `Effect` is for the next states. -/

namespace Sys2Proof

open Machine

/-- The answers of instruction `i` in state `s`: some next state, or a stop and what the spec says of it. -/
inductive Answer (i : Instr) (s : State) : Result → Prop where
  /-- The instruction completes. -/
  | next (t : State) : Answer i s (.next t)
  /-- A load of a legal address, one byte of which has no value (U3). -/
  | unwritten (base : Reg) (imm : Half) (n : Nat) (haccess : i.loadAccess = some (base, imm, n))
    (hlegal : s.illegalAddress (s.effectiveAddress base imm) n .load = false)
    (hnone : ∃ k, k < n ∧ Memory.read? s.mem ((s.effectiveAddress base imm).toNat + k) = none) :
    Answer i s (.fault .unwrittenLoad)
  /-- A double-precision instruction that names an odd register (U6). -/
  | oddDouble (hwf : i.wellFormed = false) (hdest : i.destF.length = 2) : Answer i s (.refused .oddDoubleRegister)
  /-- A coprocessor 0 move of a register the spec does not name (U7). -/
  | cop0Register (cd : CReg) (rt : Reg) (hi : i = .mfc0 rt cd ∨ i = .mtc0 cd rt) (hwf : i.wellFormed = false) :
    Answer i s (.refused .cop0Register)
  /-- A coprocessor 0 move in user mode (U8). -/
  | cop0UserMode (cd : CReg) (rt : Reg) (hi : i = .mfc0 rt cd ∨ i = .mtc0 cd rt) (hwf : i.wellFormed = true)
    (hmode : s.mode = .user) : Answer i s (.refused .cop0UserMode)

section

variable {i : Instr} {s : State}

theorem Answer.of_finishChecked (r : Reg) (overflow : Bool) (v : Word) :
    Answer i s (s.finishChecked r overflow v) := by
  cases overflow <;> exact .next _

theorem Answer.of_loadAccess {base : Reg} {imm : Half} {n : Nat} (h : i.loadAccess = some (base, imm, n)) :
    Answer i s (exec i s) := by
  obtain ⟨w, value, write, hexec, hvalue⟩ := exec_of_loadAccess h s
  rw [hexec]
  rcases s.loadThen_cases (s.effectiveAddress base imm) n value write with
    ⟨-, hload⟩ | ⟨hlegal, ⟨v, -, hload⟩ | ⟨hnone, hload⟩⟩ <;> rw [hload]
  · exact .next _
  · exact .next _
  · exact .unwritten base imm n h hlegal (hvalue.mp hnone)

theorem Answer.of_store (ea : Word) (n : Nat) (bs : List Byte) : Answer i s (s.store ea n bs) := by
  rcases s.store_spec ea n bs with ⟨-, t, hstore, -⟩ | ⟨-, t, hstore, -⟩ <;> rw [hstore] <;> exact .next t

theorem Answer.of_double {op : FpOp} {fd fs ft : FReg} (hdest : i.destF.length = 2)
    (hwf : i.wellFormed = decide (evenPair fd ∧ evenPair fs ∧ evenPair ft)) : Answer i s (s.double op fd fs ft) := by
  unfold State.double
  split_ifs with heven
  · exact .next _
  · refine .oddDouble ?_ hdest
    simpa [hwf, pairNumber, and_assoc] using heven

theorem Answer.of_cop0Then {cd : CReg} {rt : Reg} {run : Cop0Reg → State} (hi : i = .mfc0 rt cd ∨ i = .mtc0 cd rt) :
    Answer i s (s.cop0Then cd run) := by
  have hwf : i.wellFormed = decide (namedCop0 cd) := by rcases hi with rfl | rfl <;> rfl
  rcases s.cop0Then_cases cd run with ⟨hcd, hrun⟩ | ⟨r, hr, hmode, hrun⟩ | ⟨r, -, -, hrun⟩ <;> rw [hrun]
  · exact .cop0Register cd rt hi (by simp [hwf, hcd])
  · have hcd : namedCop0 cd := by
      by_contra hcd
      exact absurd (hr.symm.trans ((cop0Reg?_eq_none cd).mpr hcd)) nofun
    exact .cop0UserMode cd rt hi (by simp [hwf, hcd]) hmode
  · exact .next _

end

theorem exec_answer (i : Instr) (s : State) : Answer i s (exec i s) := by
  cases i
  case add | sub | addi => exact .of_finishChecked _ _ _
  case div | divu =>
    simp only [exec_div, execDiv, exec_divu, execDivu]
    split_ifs <;> exact .next _
  case lw | lbu | lb | lhu | lh | lwc1 => exact .of_loadAccess rfl
  case sw | sb | sh | swc1 => exact .of_store _ _ _
  case mfc0 rt cd => exact .of_cop0Then (.inl rfl)
  case mtc0 cd rt => exact .of_cop0Then (.inr rfl)
  case addD | subD | mulD | divD => exact .of_double rfl rfl
  case movD fd fs =>
    rw [exec_movD, execMovD]
    split_ifs with heven
    · exact .next _
    · exact .oddDouble (by simpa [Instr.wellFormed, pairNumber] using heven) rfl
  -- The other instructions end in `.next` whatever the state.
  all_goals exact .next _

/-- Settles O23: the four stops of `Answer` are the ones listed. -/
theorem instructionStopsOnlyWhereSpecSays : Obligations.InstructionStopsOnlyWhereSpecSays := by
  refine fun i s => ⟨fun r h => ?_, fun r h => ?_⟩
  · have hanswer := exec_answer i s
    rw [h] at hanswer
    cases hanswer with
    | unwritten base imm n haccess hlegal hnone =>
      obtain ⟨haligned, hlegal⟩ := (s.illegalAddress_eq_false_iff _ _ _).mp hlegal
      exact ⟨rfl, base, imm, n, haccess, haligned, hlegal, hnone⟩
  · have hanswer := exec_answer i s
    rw [h] at hanswer
    cases hanswer with
    | oddDouble hwf hdest => exact .inl ⟨rfl, hwf, hdest⟩
    | cop0Register cd rt hi hwf => exact .inr ⟨cd, rt, hi, .inl ⟨rfl, hwf⟩⟩
    | cop0UserMode cd rt hi hwf hmode => exact .inr ⟨cd, rt, hi, .inr ⟨rfl, hwf, hmode⟩⟩

end Sys2Proof

/-! PROOFS. O26 (00_scope.md section 3, LegalAddr; log 3): a hole can be one address, one mode, one size and one kind,
and there are finitely many of these. -/

namespace Sys2Proof

open Machine

/-- The hole that takes in one access only. -/
def pointHole (m : Mode) (a : Word) (n : Nat) (k : AccessKind) : Hole :=
  { mode := some m, size := some n, kind := some k, first := a, last := a }

theorem covers_iff {h : Hole} {m : Mode} {a : Word} {n : Nat} {k : AccessKind} :
    Hole.covers h m a n k = true ↔ h.mode.all (· = m) = true ∧ h.size.all (· = n) = true ∧ h.kind.all (· = k) = true ∧
      h.first ≤ a ∧ a ≤ h.last := by
  simp only [Hole.covers, Bool.and_eq_true, decide_eq_true_eq, and_assoc]

theorem covers_pointHole_iff {m m' : Mode} {a a' : Word} {n n' : Nat} {k k' : AccessKind} :
    Hole.covers (pointHole m' a' n' k') m a n k = true ↔ m' = m ∧ a' = a ∧ n' = n ∧ k' = k := by
  have hpoint : a' ≤ a ∧ a ≤ a' ↔ a' = a := by
    rw [BitVec.le_def, BitVec.le_def, ← le_antisymm_iff, BitVec.toNat_inj]
  rw [covers_iff, ← hpoint]
  simp only [pointHole, Option.all_some, decide_eq_true_eq]
  tauto

/-- The accesses the predicate refuses, as holes of one access each; `words` lists the addresses looked at. -/
def pointHoles (P : Mode → Word → Nat → AccessKind → Bool) (words : List Word) : List Hole :=
  [Mode.kernel, Mode.user].flatMap fun m => words.flatMap fun a => [1, 2, 4].flatMap fun n =>
    [AccessKind.fetch, AccessKind.load, AccessKind.store].flatMap fun k => if P m a n k then [] else [pointHole m a n k]

theorem mem_pointHoles_iff {P : Mode → Word → Nat → AccessKind → Bool} {words : List Word} {h : Hole} :
    h ∈ pointHoles P words ↔
      ∃ m a n k, a ∈ words ∧ n ∈ [1, 2, 4] ∧ P m a n k = false ∧ h = pointHole m a n k := by
  simp only [pointHoles, List.mem_flatMap]
  constructor
  · rintro ⟨m, -, a, ha, n, hn, k, -, hmem⟩
    split_ifs at hmem with hP
    · cases hmem
    · exact ⟨m, a, n, k, ha, hn, by simpa using hP, List.mem_singleton.mp hmem⟩
  · rintro ⟨m, a, n, k, ha, hn, hP, rfl⟩
    exact ⟨m, by cases m <;> simp, a, ha, n, hn, k, by cases k <;> simp, by simp [hP]⟩

theorem exists_list_of_all_bitVec (w : Nat) : ∃ l : List (BitVec w), ∀ a, a ∈ l :=
  ⟨(List.finRange (2 ^ w)).map BitVec.ofFin, fun a => List.mem_map.mpr ⟨a.toFin, List.mem_finRange _, rfl⟩⟩

/-- Settles O26: the holes are the single accesses the predicate refuses, over a list of all addresses. -/
theorem holesExpressEveryPredicate : Obligations.HolesExpressEveryPredicate := by
  intro P
  obtain ⟨words, hwords⟩ := exists_list_of_all_bitVec 32
  refine ⟨pointHoles P words, fun p hp m a n k hn => ?_⟩
  have hcovered : p.holes.any (fun h => Hole.covers h m a n k) = true ↔ P m a n k = false := by
    rw [hp, List.any_eq_true]
    constructor
    · rintro ⟨h, hmem, hcovers⟩
      obtain ⟨m', a', n', k', -, -, hP, rfl⟩ := mem_pointHoles_iff.mp hmem
      obtain ⟨rfl, rfl, rfl, rfl⟩ := covers_pointHole_iff.mp hcovers
      exact hP
    · intro hP
      exact ⟨_, mem_pointHoles_iff.mpr ⟨m, a, n, k, hwords a, hn, hP, rfl⟩,
        covers_pointHole_iff.mpr ⟨rfl, rfl, rfl, rfl⟩⟩
  rw [legalAddr]
  cases hP : P m a n k
  · rw [hcovered.mpr hP]
    rfl
  · rw [Bool.not_eq_true', ← Bool.not_eq_true, hcovered, hP]
    nofun

end Sys2Proof

/-! PROOFS. O28 to O38 (40_arith_logic_reg.md, 41_immediate.md, 42_shift.md; 60_exceptions.md R238): arithmetic,
comparisons, logic and shifts. -/

namespace Sys2Proof

open Machine

/-- A result in a general register, with what is to be said of its value. -/
theorem Machine.State.finishX_spec_of (s : State) (r : Reg) {v : Word} {P : Word → Prop} (h : P v) :
    ∃ t u, s.finishX r v = .next t ∧ t.pc = s.pc + 4#32 ∧ WritesX s t r u ∧ P u := by
  obtain ⟨t, hexec, hpc, hwrites⟩ := s.finishX_spec r v
  exact ⟨t, v, hexec, hpc, hwrites, h⟩

-- Checked sums (O28, O29, O30).

theorem finishChecked_of_fits (s : State) (r : Reg) {n : Int} {v : Word} (hv : v.toInt = n.bmod (2 ^ 32))
    (hlo : -2 ^ 31 ≤ n) (hhi : n ≤ 2 ^ 31 - 1) :
    ∃ t u, s.finishChecked r (outOfRange n) v = .next t ∧ t.pc = s.pc + 4#32 ∧ WritesX s t r u ∧ u.toInt = n := by
  have hn : v.toInt = n := hv.trans (Int.bmod_eq_of_le_mul_two (by omega) (by omega))
  rw [(outOfRange_eq_false_iff n).mpr ⟨hlo, hhi⟩]
  exact s.finishX_spec_of r hn

theorem finishChecked_of_overflow (s : State) (r : Reg) {n : Int} (v : Word) (h : n < -2 ^ 31 ∨ n > 2 ^ 31 - 1) :
    ∃ t, s.finishChecked r (outOfRange n) v = .next t ∧ EntersException s t 12#32 := by
  rw [(outOfRange_eq_true_iff n).mpr h]
  exact s.raise_spec .integerOverflow

/-- Settles O28: where the exact sum fits, the sum modulo 2^32 is it. -/
theorem checkedSumResult : Obligations.CheckedSumResult := by
  refine fun s rd rs rt imm => ⟨?_, ?_, ?_⟩
  · exact finishChecked_of_fits s rd (BitVec.toInt_add _ _)
  · exact finishChecked_of_fits s rd BitVec.toInt_sub
  · rw [← signExtImm_toInt]
    exact finishChecked_of_fits s rt (BitVec.toInt_add _ _)

/-- Settles O29: where it does not fit, the exception is the whole effect, whatever the destination. -/
theorem overflowTraps : Obligations.OverflowTraps := by
  refine fun s rd rs rt imm => ⟨?_, ?_, ?_⟩
  · exact finishChecked_of_overflow s rd _
  · exact finishChecked_of_overflow s rd _
  · rw [← signExtImm_toInt]
    exact finishChecked_of_overflow s rt _

/-- Settles O30: the sign bit says whether the signed number is negative, and an overflow moves the result by 2^32. -/
theorem overflowBySignBits : Obligations.OverflowBySignBits := by
  intro a b
  have ha := a.toInt_lt
  have ha' := a.le_toInt
  have hb := b.toInt_lt
  have hb' := b.le_toInt
  simp only [addOverflow, subOverflow, outOfRange_eq_true_iff, BitVec.msb_eq_toInt, BitVec.toInt_add, BitVec.toInt_sub,
    ne_eq, decide_eq_decide, Int.bmod_def]
  constructor <;> split_ifs <;> omega

-- Sums modulo 2^32 (O31).

/-- The unsigned number of a word is its signed number modulo 2^32. -/
theorem natCast_toNat_eq_toInt_emod (v : Word) : (v.toNat : Int) = v.toInt % 2 ^ 32 := by
  have := v.isLt
  rw [BitVec.toInt_eq_toNat_cond]
  split_ifs <;> omega

/-- Settles O31: the sum and the difference of words are those of their unsigned numbers modulo 2^32, and the
immediate's sign extension has its signed number. -/
theorem uncheckedSumResult : Obligations.UncheckedSumResult := by
  refine fun s rd rs rt imm => ⟨?_, ?_, ?_⟩
  · exact s.finishX_spec_of rd (BitVec.toNat_add _ _)
  · refine s.finishX_spec_of rd (P := fun v => (v.toNat : Int) = _) ?_
    have := (s.x rt).isLt
    rw [BitVec.toNat_sub]
    omega
  · refine s.finishX_spec_of rt (P := fun v => (v.toNat : Int) = _) ?_
    have himm := natCast_toNat_eq_toInt_emod (signExtImm imm)
    rw [signExtImm_toInt] at himm
    rw [BitVec.toNat_add]
    omega

-- Products (O32).

theorem toNat_halves (p : Double) :
    (p.extractLsb' 32 32).toNat * 2 ^ 32 + (p.extractLsb' 0 32).toNat = p.toNat := by
  have := p.isLt
  simp only [BitVec.extractLsb'_toNat, Nat.shiftRight_eq_div_pow]
  omega

/-- Of the two halves, the upper one carries the sign. -/
theorem toInt_halves (p : Double) :
    (p.extractLsb' 32 32).toInt * 2 ^ 32 + (p.extractLsb' 0 32).toNat = p.toInt := by
  have hp := p.isLt
  have hlow := (p.extractLsb' 0 32).isLt
  have hhalves := toNat_halves p
  simp only [BitVec.toInt_eq_toNat_cond]
  split_ifs <;> omega

theorem toInt_ofInt_mul_toInt (a b : Word) : (BitVec.ofInt 64 (a.toInt * b.toInt)).toInt = a.toInt * b.toInt := by
  have hbound (v : Word) : |v.toInt| ≤ 2 ^ 31 := by
    have := v.toInt_lt
    have := v.le_toInt
    rw [abs_le]
    omega
  have hmul : |a.toInt * b.toInt| ≤ 2 ^ 31 * 2 ^ 31 := by
    rw [abs_mul]
    exact mul_le_mul (hbound a) (hbound b) (abs_nonneg _) (by decide)
  obtain ⟨hlo, hhi⟩ := abs_le.mp hmul
  rw [BitVec.toInt_ofInt]
  exact Int.bmod_eq_of_le_mul_two (by omega) (by omega)

theorem toNat_ofNat_mul_toNat (a b : Word) : (BitVec.ofNat 64 (a.toNat * b.toNat)).toNat = a.toNat * b.toNat := by
  rw [BitVec.toNat_ofNat]
  have hmul : a.toNat * b.toNat < 2 ^ 32 * 2 ^ 32 := Nat.mul_lt_mul'' a.isLt b.isLt
  exact Nat.mod_eq_of_lt hmul

/-- Settles O32: both products fit 64 bits, and Hi and Lo are the halves. -/
theorem productResult : Obligations.ProductResult := by
  refine fun s rs rt => ⟨?_, ?_⟩
  · obtain ⟨t, hexec, hpc, hwrites⟩ := s.finishProduct_spec (BitVec.ofInt 64 ((s.x rs).toInt * (s.x rt).toInt))
    exact ⟨t, _, _, hexec, hpc, hwrites, (toInt_halves _).trans (toInt_ofInt_mul_toInt _ _)⟩
  · obtain ⟨t, hexec, hpc, hwrites⟩ := s.finishProduct_spec (BitVec.ofNat 64 ((s.x rs).toNat * (s.x rt).toNat))
    exact ⟨t, _, _, hexec, hpc, hwrites, (toNat_halves _).trans (toNat_ofNat_mul_toNat _ _)⟩

-- Quotients (O33, O34).

/-- The truncated quotient and its remainder: they make up the dividend, the remainder is smaller than the divisor and
has the sign of the dividend. -/
theorem tdiv_tmod_spec (n : Int) {d : Int} (hd : d ≠ 0) :
    n = n.tdiv d * d + n.tmod d ∧ |n.tmod d| < |d| ∧ 0 ≤ n.tmod d * n := by
  refine ⟨(Int.tdiv_mul_add_tmod n d).symm, ?_, ?_⟩
  · rw [Int.abs_eq_natAbs, Int.abs_eq_natAbs, Int.natAbs_tmod]
    exact_mod_cast Nat.mod_lt _ (Int.natAbs_pos.mpr hd)
  · rcases le_total 0 n with hn | hn
    · exact mul_nonneg (Int.tmod_nonneg d hn) hn
    · have hneg := Int.tmod_nonneg d (neg_nonneg.mpr hn)
      rw [Int.neg_tmod] at hneg
      exact mul_nonneg_of_nonpos_of_nonpos (neg_nonneg.mp hneg) hn

/-- But for -2^31 / -1 the quotient fits 32 bits, and the remainder always does. -/
theorem toInt_ofInt_tdiv_tmod {n d : Word} (hd : d.toInt ≠ 0) (hopen : ¬ (n.toInt = -2 ^ 31 ∧ d.toInt = -1)) :
    (BitVec.ofInt 32 (n.toInt.tdiv d.toInt)).toInt = n.toInt.tdiv d.toInt ∧
      (BitVec.ofInt 32 (n.toInt.tmod d.toInt)).toInt = n.toInt.tmod d.toInt := by
  obtain ⟨heq, hlt, -⟩ := tdiv_tmod_spec n.toInt hd
  rw [Int.abs_eq_natAbs, Int.abs_eq_natAbs] at hlt
  have hq : (n.toInt.tdiv d.toInt).natAbs ≤ n.toInt.natAbs := by
    rw [Int.natAbs_tdiv]
    exact Nat.div_le_self _ _
  have hn := n.toInt_lt
  have hn' := n.le_toInt
  have hd := d.toInt_lt
  have hd' := d.le_toInt
  rw [BitVec.toInt_ofInt, BitVec.toInt_ofInt]
  generalize n.toInt.tdiv d.toInt = q at *
  generalize n.toInt.tmod d.toInt = r at *
  have hfits : q ≠ 2 ^ 31 := by
    rintro rfl
    omega
  constructor <;> exact Int.bmod_eq_of_le_mul_two (by omega) (by omega)

theorem signedDivisionOpen_eq_true_iff (n d : Word) :
    signedDivisionOpen n d = true ↔ d.toInt = 0 ∨ (n.toInt = -2 ^ 31 ∧ d.toInt = -1) := by
  simp [signedDivisionOpen]

theorem unsignedDivisionOpen_eq_true_iff (d : Word) : unsignedDivisionOpen d = true ↔ d.toNat = 0 := by
  simp [unsignedDivisionOpen]

theorem exec_div_of_open {s : State} {rs rt : Reg} (h : signedDivisionOpen (s.x rs) (s.x rt) = true) :
    exec (.div rs rt) s = .next s.drawHiLo.advance := by
  rw [exec_div, execDiv]
  exact if_pos h

theorem exec_div_of_not_open {s : State} {rs rt : Reg} (h : ¬ signedDivisionOpen (s.x rs) (s.x rt) = true) :
    exec (.div rs rt) s = .next (s.setHiLo (BitVec.ofInt 32 ((s.x rs).toInt.tmod (s.x rt).toInt))
      (BitVec.ofInt 32 ((s.x rs).toInt.tdiv (s.x rt).toInt))).advance := by
  rw [exec_div, execDiv]
  exact if_neg h

theorem exec_divu_of_open {s : State} {rs rt : Reg} (h : unsignedDivisionOpen (s.x rt) = true) :
    exec (.divu rs rt) s = .next s.drawHiLo.advance := by
  rw [exec_divu, execDivu]
  exact if_pos h

theorem exec_divu_of_not_open {s : State} {rs rt : Reg} (h : ¬ unsignedDivisionOpen (s.x rt) = true) :
    exec (.divu rs rt) s = .next (s.setHiLo (BitVec.ofNat 32 ((s.x rs).toNat % (s.x rt).toNat))
      (BitVec.ofNat 32 ((s.x rs).toNat / (s.x rt).toNat))).advance := by
  rw [exec_divu, execDivu]
  exact if_neg h

/-- Settles O33: the quotient and the remainder fit 32 bits, so Hi and Lo hold them exactly. -/
theorem quotientResult : Obligations.QuotientResult := by
  refine fun s rs rt => ⟨fun hd hopen => ?_, fun hd => ?_⟩
  · obtain ⟨hq, hr⟩ := toInt_ofInt_tdiv_tmod hd hopen
    obtain ⟨hpc, hwrites⟩ := s.setHiLo_advance_spec (BitVec.ofInt 32 ((s.x rs).toInt.tmod (s.x rt).toInt))
      (BitVec.ofInt 32 ((s.x rs).toInt.tdiv (s.x rt).toInt))
    refine ⟨_, _, _, exec_div_of_not_open ?_, hpc, hwrites, ?_⟩
    · rw [signedDivisionOpen_eq_true_iff]
      exact not_or.mpr ⟨hd, hopen⟩
    · rw [hq, hr]
      exact tdiv_tmod_spec _ hd
  · have hn := (s.x rs).isLt
    have hrem := Nat.mod_lt (s.x rs).toNat (Nat.pos_of_ne_zero hd)
    obtain ⟨hpc, hwrites⟩ := s.setHiLo_advance_spec (BitVec.ofNat 32 ((s.x rs).toNat % (s.x rt).toNat))
      (BitVec.ofNat 32 ((s.x rs).toNat / (s.x rt).toNat))
    refine ⟨_, _, _, exec_divu_of_not_open ?_, hpc, hwrites, ?_⟩
    · rwa [unsignedDivisionOpen_eq_true_iff]
    · rw [BitVec.toNat_ofNat, BitVec.toNat_ofNat, Nat.mod_eq_of_lt ((Nat.div_le_self _ _).trans_lt hn),
        Nat.mod_eq_of_lt ((Nat.mod_le _ _).trans_lt hn)]
      exact ⟨(Nat.div_add_mod' _ _).symm, hrem⟩

/-- Settles O34: the open divisions draw two free values. -/
theorem openDivisionCompletes : Obligations.OpenDivisionCompletes := by
  have hdraw := State.drawHiLo_advance_spec
  refine fun s rs rt => ⟨fun hd => ⟨_, exec_divu_of_open ?_, hdraw s⟩, fun hopen => ⟨_, exec_div_of_open ?_, hdraw s⟩⟩
  · simp [unsignedDivisionOpen_eq_true_iff, hd]
  · rw [signedDivisionOpen_eq_true_iff]
    rcases hopen with hd | ⟨hn, hd⟩
    · exact .inl (by rw [hd]; rfl)
    · exact .inr ⟨by rw [hn]; rfl, by rw [hd]; rfl⟩

-- Comparisons (O35).

theorem finishX_boolWord_spec (s : State) (r : Reg) (p : Prop) [Decidable p] :
    ∃ t, s.finishX r (boolWord (decide p)) = .next t ∧ t.pc = s.pc + 4#32 ∧
      WritesX s t r (if p then 1#32 else 0#32) := by
  simpa only [boolWord, decide_eq_true_eq] using s.finishX_spec r (boolWord (decide p))

/-- Settles O35: the four differ in the operands and in the comparison. -/
theorem comparisonResult : Obligations.ComparisonResult := by
  refine fun s rd rs rt imm => ⟨?_, ?_, ?_, ?_⟩
  · exact finishX_boolWord_spec s rd _
  · exact finishX_boolWord_spec s rd _
  · rw [← signExtImm_toInt]
    exact finishX_boolWord_spec s rt _
  · exact finishX_boolWord_spec s rt _

-- Logic (O36).

theorem zeroExtImm_getLsbD (imm : Half) {k : Nat} (hk : k < 32) :
    (zeroExtImm imm).getLsbD k = (decide (k < 16) && imm.getLsbD k) := by
  rw [zeroExtImm, BitVec.zeroExtend_eq_setWidth, BitVec.getLsbD_setWidth, Bool.eq_iff_iff]
  simp only [Bool.and_eq_true, decide_eq_true_eq]
  exact ⟨fun h => ⟨BitVec.lt_of_getLsbD h.2, h.2⟩, fun h => ⟨hk, h.2⟩⟩

/-- Settles O36: each instruction is the operation of words, which works bit by bit. -/
theorem logicResult : Obligations.LogicResult := by
  refine fun s rd rs rt imm => ⟨?_, ?_, ?_, ?_, ?_, ?_, ?_⟩
  · exact s.finishX_spec_of rd fun k _ => BitVec.getLsbD_and
  · exact s.finishX_spec_of rd fun k _ => BitVec.getLsbD_or
  · exact s.finishX_spec_of rd fun k hk => by simp [hk]
  · exact s.finishX_spec_of rd fun k _ => BitVec.getLsbD_xor
  · exact s.finishX_spec_of rt fun k hk => by rw [BitVec.getLsbD_and, zeroExtImm_getLsbD imm hk, Bool.and_left_comm]
  · exact s.finishX_spec_of rt fun k hk => by rw [BitVec.getLsbD_or, zeroExtImm_getLsbD imm hk]
  · exact s.finishX_spec_of rt fun k hk => by rw [BitVec.getLsbD_xor, zeroExtImm_getLsbD imm hk]

-- Shifts (O37, O38).

theorem toNat_shiftLeft_eq_mul (v : Word) (n : Nat) : (v <<< n).toNat = v.toNat * 2 ^ n % 2 ^ 32 := by
  rw [BitVec.toNat_shiftLeft, Nat.shiftLeft_eq]

theorem toNat_ushiftRight_eq_div (v : Word) (n : Nat) : (v >>> n).toNat = v.toNat / 2 ^ n := by
  rw [BitVec.toNat_ushiftRight, Nat.shiftRight_eq_div_pow]

/-- An arithmetic shift is the floor of the signed quotient. -/
theorem toInt_sshiftRight_eq_fdiv (v : Word) (n : Nat) : (v.sshiftRight n).toInt = Int.fdiv v.toInt (2 ^ n) := by
  rw [BitVec.toInt_sshiftRight, Int.shiftRight_eq_div_pow, Int.fdiv_eq_ediv_of_nonneg _ (by positivity)]
  norm_cast

/-- Settles O37: shifts of words are multiplication and division of their numbers by a power of 2. -/
theorem immediateShiftResult : Obligations.ImmediateShiftResult := fun s rd _ _ =>
  ⟨s.finishX_spec_of rd (toNat_shiftLeft_eq_mul _ _), s.finishX_spec_of rd (toNat_ushiftRight_eq_div _ _),
    s.finishX_spec_of rd (toInt_sshiftRight_eq_fdiv _ _)⟩

/-- Settles O38: the immediate shifts by x[rs] mod 32. -/
theorem variableShiftResult : Obligations.VariableShiftResult := by
  intro s rd rt rs
  rw [← shiftAmount_toNat]
  exact ⟨s.finishX_spec_of rd (toNat_shiftLeft_eq_mul _ _), s.finishX_spec_of rd (toNat_ushiftRight_eq_div _ _),
    s.finishX_spec_of rd (toInt_sshiftRight_eq_fdiv _ _)⟩

end Sys2Proof

/-! PROOFS. O48 to O52, O59, O60 (44_branch_jump.md R176 to R179; 45_move_hilo_cop0.md; 47_syscall.md; 60_exceptions.md
R246): jumps, moves, the system call and the return from it. -/

namespace Sys2Proof

open Machine

-- Jumps (O48, O49).

theorem Machine.State.goto_spec (s : State) (a : Word) : OnlyPc s (s.goto a) ∧ (s.goto a).pc = a := by
  simp [OnlyPc, KeepsX, KeepsF, KeepsHiLo, KeepsCop0, KeepsMemory, KeepsPlatform, KeepsDraws]

/-- A link is the write of one register, and the jump changes nothing but `pc`. -/
theorem Machine.State.setX_goto_spec (s : State) (r : Reg) (v a : Word) :
    WritesX s ((s.setX r v).goto a) r v ∧ ((s.setX r v).goto a).pc = a := by
  obtain ⟨-, hwrites⟩ := s.setX_advance_spec r v
  exact ⟨hwrites, rfl⟩

/-- Settles O48: both go to the target in the region of the old `pc`. -/
theorem jumpResult : Obligations.JumpResult := by
  intro s target
  obtain ⟨honly, hpc⟩ := s.goto_spec (jumpTarget s.pc target)
  obtain ⟨hwrites, hpc'⟩ := s.setX_goto_spec 31 (s.pc + 4#32) (jumpTarget s.pc target)
  rw [← jumpTarget_toNat]
  exact ⟨⟨_, rfl, honly, congrArg _ hpc⟩, ⟨_, rfl, hwrites, congrArg _ hpc'⟩⟩

/-- Settles O49: the target is read from the state before the link is written. -/
theorem jumpRegisterResult : Obligations.JumpRegisterResult := fun s rd rs =>
  ⟨⟨_, rfl, s.goto_spec (s.x rs)⟩, ⟨_, rfl, s.setX_goto_spec rd (s.pc + 4#32) (s.x rs)⟩⟩

-- Moves (O50, O51, O52).

/-- Settles O50: both are a register write of the register copied. -/
theorem moveFromHiLoResult : Obligations.MoveFromHiLoResult := fun s rd =>
  ⟨s.finishX_spec rd s.hi, s.finishX_spec rd s.lo⟩

theorem exists_cop0Reg?_of_named {cd : CReg} (h : namedCop0 cd) : ∃ c, cop0Reg? cd = some c := by
  rw [← Option.ne_none_iff_exists']
  exact fun hnone => (cop0Reg?_eq_none cd).mp hnone h

theorem cop0Then_of_kernel {s : State} {cd : CReg} {c : Cop0Reg} (hc : cop0Reg? cd = some c) (hmode : s.mode = .kernel)
    (run : Cop0Reg → State) : s.cop0Then cd run = .next (run c).advance := by
  simp [State.cop0Then, hc, hmode]

theorem cop0Then_of_user {s : State} {cd : CReg} (h : namedCop0 cd) (hmode : s.mode = .user) (run : Cop0Reg → State) :
    s.cop0Then cd run = .refused .cop0UserMode := by
  obtain ⟨c, hc⟩ := exists_cop0Reg?_of_named h
  simp [State.cop0Then, hc, hmode]

theorem cop0Then_of_not_named {cd : CReg} (h : ¬ namedCop0 cd) (s : State) (run : Cop0Reg → State) :
    s.cop0Then cd run = .refused .cop0Register := by
  simp [State.cop0Then, (cop0Reg?_eq_none cd).mpr h]

/-- The register a number names, as the statements write it. -/
theorem c0_eq_ite {cd : CReg} {c : Cop0Reg} (hc : cop0Reg? cd = some c) (s : State) :
    s.c0 c = if cd = 12 then s.status else if cd = 13 then s.cause else s.epc := by
  cases c with
  | status => simp [State.c0, cop0Reg?_eq_status.mp hc]
  | cause => simp [State.c0, cop0Reg?_eq_cause.mp hc]
  | epc => simp [State.c0, cop0Reg?_eq_epc.mp hc]

theorem setC0_advance_spec {cd : CReg} {c : Cop0Reg} (hc : cop0Reg? cd = some c) (s : State) (v : Word) :
    (s.setC0 c v).advance.pc = s.pc + 4#32 ∧ WritesCop0 s (s.setC0 c v).advance cd v := by
  have hcd : (c = .status ↔ cd = 12) ∧ (c = .cause ↔ cd = 13) ∧ (c = .epc ↔ cd = 14) := by
    rw [← cop0Reg?_eq_status, ← cop0Reg?_eq_cause, ← cop0Reg?_eq_epc, hc]
    simp
  obtain ⟨hstatus, hcause, hepc⟩ := hcd
  simp [WritesCop0, KeepsX, KeepsF, KeepsHiLo, KeepsMemory, KeepsPlatform, KeepsDraws, hstatus, hcause, hepc]

/-- Settles O51: in kernel mode a move of a named register reads or writes that register. -/
theorem cop0MoveResult : Obligations.Cop0MoveResult := by
  intro s rt cd hmode hcd
  obtain ⟨c, hc⟩ := exists_cop0Reg?_of_named hcd
  rw [← c0_eq_ite hc]
  exact ⟨⟨_, cop0Then_of_kernel hc hmode _, s.setX_advance_spec rt (s.c0 c)⟩,
    ⟨_, cop0Then_of_kernel hc hmode _, setC0_advance_spec hc s (s.x rt)⟩⟩

/-- Settles O52: the register number is looked at first, then the mode. -/
theorem cop0MoveRefused : Obligations.Cop0MoveRefused := fun s _ _ =>
  ⟨fun hcd => ⟨cop0Then_of_not_named hcd s _, cop0Then_of_not_named hcd s _⟩,
    fun hcd hmode => ⟨cop0Then_of_user hcd hmode _, cop0Then_of_user hcd hmode _⟩⟩

-- System call and return (O59, O60).

/-- Settles O59: SYSCALL raises its exception in every state. -/
theorem syscallEntersException : Obligations.SyscallEntersException := fun s => s.raise_spec .syscall

/-- Settles O60: R_k takes EPC, which is the address of the SYSCALL, then EPC + 4, and JR goes there. -/
theorem softwareReturnFromSyscall : Obligations.SoftwareReturnFromSyscall := by
  intro s k hk
  obtain ⟨t1, h1, hepc, -, -, hmode1, -, hx1, hf1, ⟨hhi1, hlo1⟩, ⟨hmem1, hst1⟩, -⟩ := syscallEntersException s
  obtain ⟨⟨t2, h2, -, hx2, hf2, ⟨hhi2, hlo2⟩, -, hmode2, ⟨hmem2, hst2⟩, -⟩, -⟩ :=
    cop0MoveResult t1 k 14 hmode1 (.inr (.inr rfl))
  obtain ⟨t3, h3, -, hx3, hf3, ⟨hhi3, hlo3⟩, -, hmode3, ⟨hmem3, hst3⟩, -⟩ :=
    t2.finishX_spec k (t2.x k + signExtImm 4#16)
  obtain ⟨⟨t4, h4, ⟨hx4, hf4, ⟨hhi4, hlo4⟩, -, hmode4, ⟨hmem4, hst4⟩, -⟩, hpc4⟩, -⟩ := jumpRegisterResult t3 k k
  refine ⟨t1, t2, t3, t4, h1, h2, h3, h4, ?_, ?_, ?_, ?_, ?_, ?_⟩
  · rw [hpc4, hx3, if_pos ⟨rfl, hk⟩, hx2, if_pos ⟨rfl, hk⟩, ← hepc]
    rfl
  · rw [hmode4, hmode3, hmode2, hmode1]
  · intro r hr
    rw [hx4, hx3, if_neg (fun h => hr h.1), hx2, if_neg (fun h => hr h.1), hx1]
  · intro r
    rw [hf4, hf3, hf2, hf1]
  · exact ⟨by rw [hhi4, hhi3, hhi2, hhi1], by rw [hlo4, hlo3, hlo2, hlo1]⟩
  · exact ⟨fun a => by rw [hmem4, hmem3, hmem2, hmem1], fun a => by rw [hst4, hst3, hst2, hst1]⟩

end Sys2Proof

/-! PROOFS. O53 to O56, O58 (46_float.md R201 to R215): the floating-point instructions, given what FpArith returns. -/

namespace Sys2Proof

open Machine

-- Single precision (O53).

/-- A single-precision operation whose result is a value writes it. -/
theorem single_of_ok {s : State} {op : FpOp} {fs ft : FReg} {r : Word} (fd : FReg)
    (h : fpArith 32 singleFormat op (s.f fs) (s.f ft) = .ok r) :
    ∃ t, s.single op fd fs ft = .next t ∧ t.pc = s.pc + 4#32 ∧ WritesF s t fd r := by
  rw [State.single, h]
  exact ⟨_, rfl, s.setF_advance_spec fd r⟩

/-- Settles O53: the four instructions are one operation each. -/
theorem singleArithmeticResult : Obligations.SingleArithmeticResult := fun _ fd _ _ _ =>
  ⟨single_of_ok fd, single_of_ok fd, single_of_ok fd, single_of_ok fd⟩

-- Double precision (O54, O56).

theorem pairNumber_eq_true_iff (n : FReg) : pairNumber n = true ↔ n.val % 2 = 0 := by simp [pairNumber]

theorem double_of_even {s : State} (op : FpOp) {fd fs ft : FReg} (hfd : fd.val % 2 = 0) (hfs : fs.val % 2 = 0)
    (hft : ft.val % 2 = 0) :
    s.double op fd fs ft = s.finishDouble fd (fpArith 64 doubleFormat op (s.pair fs) (s.pair ft)) := by
  simp [State.double, pairNumber_eq_true_iff, *]

theorem double_of_odd (s : State) (op : FpOp) {fd fs ft : FReg}
    (h : fd.val % 2 = 1 ∨ fs.val % 2 = 1 ∨ ft.val % 2 = 1) : s.double op fd fs ft = .refused .oddDoubleRegister := by
  refine if_neg ?_
  simp only [Bool.and_eq_true, pairNumber_eq_true_iff]
  omega

/-- A double is its halves side by side. -/
theorem append_halves (r : Double) : r.extractLsb' 32 32 ++ r.extractLsb' 0 32 = r :=
  BitVec.extractLsb'_append_extractLsb' (w := 32) (len := 32) (x := r)

/-- A pair written: the halves go where the pair order says. -/
theorem setPair_writes_halves (s : State) (fd : FReg) (r : Double) :
    ∃ h l : Word, r = h ++ l ∧
      match s.platform.pairOrder with
      | .firstHigh => WritesTwoF s (s.setPair fd r).advance fd h l
      | .firstLow  => WritesTwoF s (s.setPair fd r).advance fd l h :=
  ⟨_, _, (append_halves r).symm, (s.setPair_advance_spec fd r).2⟩

/-- Settles O54: on even numbers the operation is of the two pairs, and a value is written as a pair. -/
theorem doubleArithmeticResult : Obligations.DoubleArithmeticResult := by
  intro s fd fs ft r hfd hfs hft value writes
  have hvalue (n : FReg) : s.pair n = value n := s.pair_eq_append n
  have hdouble (op : FpOp) (h : fpArith 64 doubleFormat op (value fs) (value ft) = .ok r) :
      ∃ t, s.double op fd fs ft = .next t ∧ t.pc = s.pc + 4#32 ∧ writes t := by
    rw [double_of_even op hfd hfs hft, hvalue, hvalue, h]
    exact ⟨_, rfl, (s.setPair_advance_spec fd r).1, setPair_writes_halves s fd r⟩
  exact ⟨hdouble .add, hdouble .sub, hdouble .mul, hdouble .div⟩

/-- Settles O56: an odd number is looked for before the operation. -/
theorem oddDoubleRefused : Obligations.OddDoubleRefused := by
  refine fun s fd fs ft => ⟨fun h => ?_, fun h => if_neg ?_⟩
  · exact ⟨double_of_odd s .add h, double_of_odd s .sub h, double_of_odd s .mul h, double_of_odd s .div h⟩
  · simp only [Bool.and_eq_true, pairNumber_eq_true_iff]
    omega

-- The FloatingPoint exception (O55).

theorem finishSingle_traps_iff (s : State) (fd : FReg) (r : FpResult 32) :
    ∃ t, s.finishSingle fd r = .next t ∧ if r = .trap then EntersException s t 15#32
      else t.pc = s.pc + 4#32 ∧ t.mode = s.mode ∧ KeepsCop0 s t := by
  rcases s.finishSingle_spec fd r with ⟨v, rfl, t, hexec, hpc, -, -, -, hcop0, hmode, -⟩ | ⟨rfl, htrap⟩
  · exact ⟨t, hexec, hpc, hmode, hcop0⟩
  · simpa using htrap

theorem finishDouble_traps_iff (s : State) (fd : FReg) (r : FpResult 64) :
    ∃ t, s.finishDouble fd r = .next t ∧ if r = .trap then EntersException s t 15#32
      else t.pc = s.pc + 4#32 ∧ t.mode = s.mode ∧ KeepsCop0 s t := by
  rcases s.finishDouble_spec fd r with ⟨v, rfl, hexec⟩ | ⟨rfl, htrap⟩
  · exact ⟨_, hexec, by simp [KeepsCop0]⟩
  · simpa using htrap

/-- Settles O55: the end of each operation is the exception exactly on Trap. -/
theorem floatTrapsWhereFpArithTraps : Obligations.FloatTrapsWhereFpArithTraps := by
  intro s op fd fs ft single double
  have hsingle : exec single s = s.single op fd fs ft := by cases op <;> rfl
  have hdouble : exec double s = s.double op fd fs ft := by cases op <;> rfl
  rw [hsingle, hdouble]
  refine ⟨finishSingle_traps_iff s fd _, fun hfd hfs hft => ?_⟩
  rw [double_of_even op hfd hfs hft]
  exact finishDouble_traps_iff s fd _

-- MOV.D (O58).

/-- Settles O58: the two registers are read before the pair is written. -/
theorem movDResult : Obligations.MovDResult := by
  intro s fd fs hfd hfs
  refine ⟨_, if_pos ?_, s.setTwoF_advance_spec fd (s.f fs) (s.f (fs + 1))⟩
  simp [pairNumber_eq_true_iff, hfd, hfs]

end Sys2Proof

/-! PROOFS. O27 (46_float.md R201, R202, FpExact): the numbers of a format are whole multiples of its unit,
2^-(bias + fracBits), and FpArith computes with how many units they are. -/

namespace Sys2Proof

open Machine

/-- How many units of the format make up 1. -/
def unitsPerOne (fmt : FpFormat) : ℚ := 2 ^ (fmt.bias + fmt.fracBits)

theorem unitsPerOne_ne_zero (fmt : FpFormat) : unitsPerOne fmt ≠ 0 := pow_ne_zero _ two_ne_zero

theorem intCast_two_pow_eq_unitsPerOne (fmt : FpFormat) :
    ((2 ^ (fmt.bias + fmt.fracBits) : Int) : ℚ) = unitsPerOne fmt := by
  simp [unitsPerOne]

/-- The bit pattern with the given fields. -/
def fpPattern (fmt : FpFormat) (sign exp frac : Nat) : Nat := (sign * 2 ^ fmt.expBits + exp) * 2 ^ fmt.fracBits + frac

/-- How many units a normal number with the given exponent and fraction fields is, but for its sign. -/
def fpMagnitude (fmt : FpFormat) (exp frac : Nat) : Nat := (2 ^ fmt.fracBits + frac) * 2 ^ exp

-- A sign put on a natural number.

@[simp] theorem natAbs_withSign (negative : Bool) (k : Nat) : (withSign negative k).natAbs = k := by
  cases negative <;> simp [withSign]

theorem withSign_neg_iff {negative : Bool} {k : Nat} (hk : k ≠ 0) : withSign negative k < 0 ↔ negative = true := by
  cases negative with
  | false => simp [withSign]
  | true =>
    simp [withSign]
    omega

theorem intCast_withSign {sign : Nat} (hsign : sign < 2) (k : Nat) :
    ((withSign (decide (sign = 1)) k : Int) : ℚ) = (-1) ^ sign * k := by
  interval_cases sign <;> simp [withSign]

section Fields

variable {fmt : FpFormat} {sign exp frac : Nat}

-- The fields are read back from the pattern.

theorem fpPattern_div_mod (hfrac : frac < 2 ^ fmt.fracBits) :
    fpPattern fmt sign exp frac / 2 ^ fmt.fracBits = sign * 2 ^ fmt.expBits + exp ∧
      fpPattern fmt sign exp frac % 2 ^ fmt.fracBits = frac :=
  (Nat.div_mod_unique (by positivity)).mpr ⟨by rw [fpPattern]; ring, hfrac⟩

theorem fpPattern_div_add (hexp : exp < 2 ^ fmt.expBits) (hfrac : frac < 2 ^ fmt.fracBits) :
    fpPattern fmt sign exp frac / 2 ^ (fmt.fracBits + fmt.expBits) = sign := by
  obtain ⟨hdiv, -⟩ := fpPattern_div_mod (sign := sign) (exp := exp) hfrac
  rw [pow_add, ← Nat.div_div_eq_div_mul, hdiv, Nat.add_comm, Nat.add_mul_div_right _ _ (by positivity),
    Nat.div_eq_of_lt hexp, Nat.zero_add]

theorem value?_fpPattern (hsign : sign < 2) (hexp : exp < 2 ^ fmt.expBits) (hfrac : frac < 2 ^ fmt.fracBits) :
    fmt.value? (fpPattern fmt sign exp frac) =
      if exp = 0 then if frac = 0 then some 0 else none
      else if exp = 2 ^ fmt.expBits - 1 then none
      else some (withSign (decide (sign = 1)) (fpMagnitude fmt exp frac)) := by
  obtain ⟨hdiv, hmod⟩ := fpPattern_div_mod (sign := sign) (exp := exp) hfrac
  simp only [FpFormat.value?, hmod, hdiv, Nat.mul_add_mod_of_lt hexp, fpPattern_div_add hexp hfrac,
    Nat.mod_eq_of_lt hsign, fpMagnitude]

-- Packing a normal number gives back its pattern.

theorem fpMagnitude_ne_zero : fpMagnitude fmt exp frac ≠ 0 := by
  have : 0 < fpMagnitude fmt exp frac := by
    unfold fpMagnitude
    positivity
  omega

theorem log2_fpMagnitude (hfrac : frac < 2 ^ fmt.fracBits) :
    Nat.log2 (fpMagnitude fmt exp frac) = fmt.fracBits + exp := by
  rw [Nat.log2_eq_iff fpMagnitude_ne_zero, fpMagnitude, Nat.add_right_comm, pow_add, pow_add _ (fmt.fracBits + 1)]
  constructor
  · exact Nat.mul_le_mul_right _ (Nat.le_add_right _ _)
  · refine Nat.mul_lt_mul_of_pos_right ?_ (by positivity)
    rw [pow_succ]
    omega

theorem pack?_withSign_fpMagnitude (hsign : sign < 2) (hexp : 1 ≤ exp) (hexp' : exp + 1 < 2 ^ fmt.expBits)
    (hfrac : frac < 2 ^ fmt.fracBits) :
    fmt.pack? (withSign (decide (sign = 1)) (fpMagnitude fmt exp frac)) = some (fpPattern fmt sign exp frac) := by
  have hdvd : 2 ^ exp ∣ fpMagnitude fmt exp frac := Nat.dvd_mul_left _ _
  have hquot : fpMagnitude fmt exp frac / 2 ^ exp = 2 ^ fmt.fracBits + frac :=
    Nat.mul_div_cancel _ (by positivity)
  have hbit : (if decide (sign = 1) = true then 1 else 0) = sign := by
    interval_cases sign <;> rfl
  simp only [FpFormat.pack?, natAbs_withSign, log2_fpMagnitude hfrac, Nat.add_sub_cancel_left, fpMagnitude_ne_zero,
    withSign_neg_iff fpMagnitude_ne_zero, hquot, Nat.mod_eq_zero_of_dvd hdvd, hbit, if_false]
  rw [if_pos ⟨hexp, by omega, trivial⟩, fpPattern]
  congr 1
  ring

/-- A normal number in units (46_float.md R202). -/
theorem mul_unitsPerOne_of_normal (hsign : sign < 2) :
    (-1 : ℚ) ^ sign * (2 ^ fmt.fracBits + frac) * 2 ^ ((exp : ℤ) - fmt.bias - fmt.fracBits) * unitsPerOne fmt =
      (withSign (decide (sign = 1)) (fpMagnitude fmt exp frac) : Int) := by
  have hpow : (2 : ℚ) ^ ((exp : ℤ) - fmt.bias - fmt.fracBits) * unitsPerOne fmt = 2 ^ exp := by
    rw [unitsPerOne, ← zpow_natCast, ← zpow_natCast, ← zpow_add₀ two_ne_zero]
    congr 1
    push_cast
    ring
  rw [mul_assoc, hpow, intCast_withSign hsign, fpMagnitude]
  push_cast
  ring

end Fields

/-- A number of the format is a whole number of units: the one the pattern is read as, and, unless it is zero, the one
that is packed into the pattern. -/
theorem FpNumber.exists_units {fmt : FpFormat} {bits : Nat} {x : ℚ} (h : FpNumber fmt bits x) :
    ∃ n : Int, x * unitsPerOne fmt = n ∧ fmt.value? bits = some n ∧ (n ≠ 0 → fmt.pack? n = some bits) := by
  obtain ⟨sign, exp, frac, hsign, hfrac, rfl, ⟨rfl, rfl, rfl⟩ | ⟨hexp, hexp', rfl⟩⟩ := h
  · have hvalue := value?_fpPattern (fmt := fmt) hsign (exp := 0) (by positivity) hfrac
    exact ⟨0, by simp, hvalue, fun hne => absurd rfl hne⟩
  · have hvalue := value?_fpPattern (fmt := fmt) (exp := exp) hsign (by omega) hfrac
    rw [if_neg (by omega), if_neg (by omega)] at hvalue
    exact ⟨_, mul_unitsPerOne_of_normal hsign, hvalue, fun _ => pack?_withSign_fpMagnitude hsign hexp hexp' hfrac⟩

/-- The exact result in units is found where the exact result is a whole number of them. -/
theorem exact?_of_units {fmt : FpFormat} {op : FpOp} {x y : ℚ} {m n k : Int} (hx : x * unitsPerOne fmt = m)
    (hy : y * unitsPerOne fmt = n) (hdiv : op = .div → y ≠ 0) (hk : op.exact x y * unitsPerOne fmt = k) :
    fmt.exact? op m n = some k := by
  have hu := unitsPerOne_ne_zero fmt
  have hpow : (2 ^ (fmt.bias + fmt.fracBits) : Int) ≠ 0 := by positivity
  cases op with
  | add =>
    have hsum : m + n = k := by
      rw [← Int.cast_inj (α := ℚ)]
      push_cast
      rw [← hx, ← hy, ← hk, FpOp.exact, add_mul]
    rw [FpFormat.exact?, hsum]
  | sub =>
    have hdiff : m - n = k := by
      rw [← Int.cast_inj (α := ℚ)]
      push_cast
      rw [← hx, ← hy, ← hk, FpOp.exact, sub_mul]
    rw [FpFormat.exact?, hdiff]
  | mul =>
    have hprod : m * n = k * 2 ^ (fmt.bias + fmt.fracBits) := by
      rw [← Int.cast_inj (α := ℚ), Int.cast_mul, Int.cast_mul, intCast_two_pow_eq_unitsPerOne, ← hx, ← hy, ← hk,
        FpOp.exact]
      ring
    rw [FpFormat.exact?, hprod, if_pos (Int.dvd_mul_left _ _), Int.mul_ediv_cancel _ hpow]
  | div =>
    have hy0 : y ≠ 0 := hdiv rfl
    have hn : n ≠ 0 := by
      rintro rfl
      exact mul_ne_zero hy0 hu (by simpa using hy)
    have hquot : m * 2 ^ (fmt.bias + fmt.fracBits) = k * n := by
      rw [← Int.cast_inj (α := ℚ), Int.cast_mul, Int.cast_mul, intCast_two_pow_eq_unitsPerOne, ← hx, ← hy, ← hk,
        FpOp.exact]
      field_simp
    rw [FpFormat.exact?, if_neg hn, hquot, if_pos (Int.dvd_mul_left _ _), Int.mul_ediv_cancel _ hn]

section Results

variable {w : Nat} {fmt : FpFormat} {op : FpOp} {a b r : BitVec w} {x y : ℚ}

theorem fpArith_of_exact (ha : FpNumber fmt a.toNat x) (hb : FpNumber fmt b.toNat y) (hdiv : op = .div → y ≠ 0)
    (hne : op.exact x y ≠ 0) (hr : FpNumber fmt r.toNat (op.exact x y)) : fpArith w fmt op a b = .ok r := by
  obtain ⟨m, hm, hma, -⟩ := ha.exists_units
  obtain ⟨n, hn, hnb, -⟩ := hb.exists_units
  obtain ⟨k, hk, -, hpack⟩ := hr.exists_units
  have hk0 : k ≠ 0 := by
    rintro rfl
    exact mul_ne_zero hne (unitsPerOne_ne_zero fmt) (by simpa using hk)
  simp [fpArith, hma, hnb, exact?_of_units hm hn hdiv hk, hk0, hpack hk0]

theorem fpArith_of_cancellation (hop : op = .add ∨ op = .sub) (ha : FpNumber fmt a.toNat x)
    (hb : FpNumber fmt b.toNat y) (hx : x ≠ 0) (hzero : op.exact x y = 0) : fpArith w fmt op a b = .ok 0#w := by
  obtain ⟨m, hm, hma, -⟩ := ha.exists_units
  obtain ⟨n, hn, hnb, -⟩ := hb.exists_units
  have hm0 : m ≠ 0 := by
    rintro rfl
    exact mul_ne_zero hx (unitsPerOne_ne_zero fmt) (by simpa using hm)
  have hdiv : op = .div → y ≠ 0 := by
    rintro rfl
    simp at hop
  have hexact : fmt.exact? op m n = some 0 := exact?_of_units hm hn hdiv (by simp [hzero])
  simp [fpArith, hma, hnb, hexact, zeroResult, hop, hm0]

end Results

/-- Settles O27: in units the argument is the same for both formats. -/
theorem fpExactResult : Obligations.FpExactResult := fun _ =>
  ⟨fun _ _ _ _ _ => fpArith_of_exact, fun _ _ _ _ _ => fpArith_of_exact, fun hop =>
    ⟨fun _ _ _ _ => fpArith_of_cancellation hop, fun _ _ _ _ => fpArith_of_cancellation hop⟩⟩

end Sys2Proof
